-- ==== Sys2Proof/Word.lean ====
section
/-! DEFINITION. The bit-vector types of RGC's values (spec 00_scope.md R15). -/

namespace Sys2Proof

/-- A byte is 8 bits (R15). -/
abbrev Byte := BitVec 8

/-- A 32-bit value: CRC remainders and the twelve 32-bit record fields (R23, R30). -/
abbrev Word := BitVec 32

/-- A command word `cmd[11:0]` (R42, R69). -/
abbrev CommandWord := BitVec 12

end Sys2Proof
end

