-- ==== Sys2Proof/Syntax.lean ====
section
/-! DEFINITION. The commands of RGC: one constructor per row of spec/opcode_table.json (R70). -/

namespace Sys2Proof

/-- A command. Every command word has one format, `op` and `data` (R69); each constructor carries the 8 bits
of `data`, also where the command ignores them (R111), so that a word and its command determine each other.
DESIGN CHOICE, safe (log 12). -/
inductive Instr where
  /-- `nop` (R109) -/
  | nop (data : Byte)
  /-- `crc.init` (R82) -/
  | crcInit (data : Byte)
  /-- `crc.byte d` (R83) -/
  | crcByte (d : Byte)
  /-- `ser.encode cap` (R87) -/
  | serEncode (cap : Byte)
  /-- `ser.pull` (R88) -/
  | serPull (data : Byte)
  /-- `des.byte d` (R90) -/
  | desByte (d : Byte)
  /-- `des.reset` (R108) -/
  | desReset (data : Byte)
  /-- The reserved opcode `0x7` (R110) -/
  | reserved7 (data : Byte)
  /-- The reserved opcode `0x8` (R110) -/
  | reserved8 (data : Byte)
  /-- The reserved opcode `0x9` (R110) -/
  | reserved9 (data : Byte)
  /-- The reserved opcode `0xA` (R110) -/
  | reservedA (data : Byte)
  /-- The reserved opcode `0xB` (R110) -/
  | reservedB (data : Byte)
  /-- The reserved opcode `0xC` (R110) -/
  | reservedC (data : Byte)
  /-- The reserved opcode `0xD` (R110) -/
  | reservedD (data : Byte)
  /-- The reserved opcode `0xE` (R110) -/
  | reservedE (data : Byte)
  /-- The reserved opcode `0xF` (R110) -/
  | reservedF (data : Byte)
deriving DecidableEq, Repr

end Sys2Proof
end

