-- ==== Sys2Proof/WellFormed.lean ====
section
/-! DEFINITION. What a written program may hold: the assembly notation of spec 30_encoding.md R73 and R74 with its
checks, and the canonical commands an assembler writes. `Instr` itself has no ill-formed term: its operand is 8
bits by type, and every one of the 4096 command words has exactly one defined effect (R72). -/

namespace Sys2Proof

/-- The data byte of a command word (R69). -/
def Instr.data : Instr → Byte
  | .nop d | .crcInit d | .crcByte d | .serEncode d | .serPull d | .desByte d | .desReset d
  | .reserved7 d | .reserved8 d | .reserved9 d | .reservedA d | .reservedB d | .reservedC d
  | .reservedD d | .reservedE d | .reservedF d => d

/-- Whether a command reads its data byte (R69, R111). -/
def Instr.readsData : Instr → Bool
  | .crcByte _ | .serEncode _ | .desByte _ => true
  | .nop _ | .crcInit _ | .serPull _ | .desReset _ | .reserved7 _ | .reserved8 _ | .reserved9 _
  | .reservedA _ | .reservedB _ | .reservedC _ | .reservedD _ | .reservedE _ | .reservedF _ => false

/-- A command in the form a mnemonic assembles to: an ignored data byte is 0 ("Assemblers write 0 there", R111).
Other data bytes under such an opcode are legal all the same (R72). -/
def Instr.canonical (i : Instr) : Bool := i.readsData || i.data == 0#8

/-- One command of the assembly notation with its operand as written (R73). -/
inductive AsmCommand where
  | nop
  | crcInit
  | crcByte (d : Nat)
  | serEncode (cap : Nat)
  | serPull
  | desByte (d : Nat)
  | desReset
  /-- `.word w` -/
  | word (w : Nat)
deriving DecidableEq, Repr

/-- One line of the assembly notation: a command or a pseudo-instruction (R74). -/
inductive AsmLine where
  | command (c : AsmCommand)
  /-- `crc.bytes b0, ..., bn` -/
  | crcBytes (bs : List Nat)
  /-- `crc.compute b0, ..., bn` -/
  | crcCompute (bs : List Nat)
  /-- `des.feed b0, ..., bn` -/
  | desFeed (bs : List Nat)
  | serDrain
  /-- `ser.send cap` -/
  | serSend (cap : Nat)
deriving DecidableEq, Repr

/-- "An operand outside 0 to 255 (0 to `0xFFF` for `.word`) is an assembly error" (R73). -/
def AsmCommand.wf : AsmCommand → Bool
  | .crcByte d => d ≤ 255
  | .serEncode cap => cap ≤ 255
  | .desByte d => d ≤ 255
  | .word w => w ≤ 0xFFF
  | .nop | .crcInit | .serPull | .desReset => true

/-- The operand check of R73 for a line. A byte list has at least one byte, `b0` (R74; DEDUCED, log 11). -/
def AsmLine.wf : AsmLine → Bool
  | .command c => c.wf
  | .crcBytes bs | .crcCompute bs | .desFeed bs => !bs.isEmpty && bs.all (· ≤ 255)
  | .serDrain => true
  | .serSend cap => cap ≤ 255

end Sys2Proof
end

