-- ==== Sys2Proof/Decode.lean ====
section
/-! DEFINITION. Command words to commands and back (spec 30_encoding.md R69 to R72). -/

namespace Sys2Proof

/-- `op = cmd[11:8]` (R69). -/
def opField (w : CommandWord) : BitVec 4 := w.extractLsb' 8 4

/-- `data = cmd[7:0]` (R69). -/
def dataField (w : CommandWord) : Byte := w.extractLsb' 0 8

/-- The command a word stands for, by the opcode map (R70). Total: every one of the 4096 words is a command, the
nine reserved opcodes among them (R72). The last arm is `0xF`, the only 4-bit number left. -/
def decodeWord (w : CommandWord) : Instr :=
  match (opField w).toNat with
  | 0x0 => .nop (dataField w)
  | 0x1 => .crcInit (dataField w)
  | 0x2 => .crcByte (dataField w)
  | 0x3 => .serEncode (dataField w)
  | 0x4 => .serPull (dataField w)
  | 0x5 => .desByte (dataField w)
  | 0x6 => .desReset (dataField w)
  | 0x7 => .reserved7 (dataField w)
  | 0x8 => .reserved8 (dataField w)
  | 0x9 => .reserved9 (dataField w)
  | 0xA => .reservedA (dataField w)
  | 0xB => .reservedB (dataField w)
  | 0xC => .reservedC (dataField w)
  | 0xD => .reservedD (dataField w)
  | 0xE => .reservedE (dataField w)
  | _ => .reservedF (dataField w)

/-- Why bytes are not a command. -/
inductive DecodeError where
  /-- Fewer than two bytes: a command word needs 12 bits. Raised by `decode`; safe. -/
  | truncated
  /-- Bits 15 to 12 of the two bytes are not 0: a command word has 12 bits (R69). Raised by `decode`; safe. -/
  | bitsAboveWord
deriving DecidableEq, Repr

/-- A command read from bytes, with the bytes left over. RGC's command port carries 12 bits and the spec gives no
byte form of a word; this one (two bytes, the less significant first, the top four bits 0) exists for the host's
questions only. DESIGN CHOICE, safe (log 8). -/
def decode (bytes : List Byte) : Except DecodeError (Instr × List Byte) :=
  match bytes with
  | lo :: hi :: rest =>
    if (hi ++ lo : BitVec 16) < 0x1000#16 then
      .ok (decodeWord ((hi ++ lo : BitVec 16).setWidth 12), rest)
    else .error .bitsAboveWord
  | _ => .error .truncated

/-- The opcode of a command (R70). -/
def opcode : Instr → BitVec 4
  | .nop _ => 0x0
  | .crcInit _ => 0x1
  | .crcByte _ => 0x2
  | .serEncode _ => 0x3
  | .serPull _ => 0x4
  | .desByte _ => 0x5
  | .desReset _ => 0x6
  | .reserved7 _ => 0x7
  | .reserved8 _ => 0x8
  | .reserved9 _ => 0x9
  | .reservedA _ => 0xA
  | .reservedB _ => 0xB
  | .reservedC _ => 0xC
  | .reservedD _ => 0xD
  | .reservedE _ => 0xE
  | .reservedF _ => 0xF

/-- The command word of a command: `op ++ data` (R69). -/
def encode (i : Instr) : CommandWord := opcode i ++ i.data

/-- The two bytes of a command in the byte form of `decode` (log 8). -/
def encodeBytes (i : Instr) : List Byte :=
  [dataField (encode i), (opField (encode i)).setWidth 8]

/-- The low `n` bytes of a number, least significant first. -/
def bytesOfNat : Nat → Nat → List Byte
  | 0, _ => []
  | n + 1, w => BitVec.ofNat 8 w :: bytesOfNat n (w / 256)

/-- The command read from an instruction whose bits are `w`, the bits at and above `nbits` taken as 0. -/
def decodeTableWord (nbits w : Nat) : Option Instr :=
  match decode (bytesOfNat 2 (w % 2 ^ nbits)) with
  | .ok (i, _) => if w % 2 ^ nbits < 0x10000 then some i else none
  | .error _ => none

end Sys2Proof
end

