-- ==== Sys2Proof/Config.lean ====
section
/-! DEFINITION. The implementation parameters of spec 00_scope.md section 3 (R6 to R14). -/

namespace Sys2Proof

/-- The two values of `ZERO_LEN_MODE` (R12): what DES does with a byte received while it collects a
zero-length payload (R98). -/
inductive ZeroLenMode where
  | fault
  | consumeOne
deriving DecidableEq, Repr, Inhabited

/-- `MAGIC`, in wire order (R6). -/
def Config.magic : Vector Byte 3 := #v[0x7D#8, 0x08#8, 0x8D#8]

/-- `MAX_LEN`, the largest legal LEN byte (R7). -/
def Config.maxLen : Nat := 64

/-- `CRC_BYTES`, the bytes of a checksum on the wire (R8). -/
def Config.crcBytes : Nat := 4

/-- `SCRATCH_BYTES`, the payload scratch buffer (R9). -/
def Config.scratchBytes : Nat := 64

/-- `PAYLOAD_LEN`, the length of the fixed payload layout (R10). -/
def Config.payloadLen : Nat := 64

/-- `FRAME_LEN = 3 + 1 + PAYLOAD_LEN + CRC_BYTES` (R10). -/
def Config.frameLen : Nat := 3 + 1 + Config.payloadLen + Config.crcBytes

/-- The CRC polynomial in normal form (R77). -/
def Config.crcPolynomial : Word := 0x04C11DB7#32

/-- The CRC polynomial bit-reversed, the constant of `crc_step` (R77, R78). -/
def Config.crcPolynomialReflected : Word := 0xEDB88320#32

/-- The CRC initial value (R77). -/
def Config.crcInit : Word := 0xFFFFFFFF#32

/-- The CRC final XOR (R77). -/
def Config.crcFinalXor : Word := 0xFFFFFFFF#32

/-- `ZERO_LEN_MODE` of this machine (R12). The spec leaves it open between two values, so it is a constant
nothing can evaluate: what is proved of the machine holds for both. DESIGN CHOICE, safe (log 5). -/
opaque Config.zeroLenMode : ZeroLenMode

end Sys2Proof
end

