-- ==== Sys2Proof/Machine/State.lean ====
section
/-! DEFINITION. The state of RGC as plain data (spec 10_state.md), its ports, the reasons a step can stop, and the
state after reset (70_reset_and_hazards.md R132). A counter register is held as a number of its legal range, which
lies inside the width the spec gives it (DEDUCED, safe, log 6). -/

namespace Sys2Proof.Machine

/-- The record (`TelemetryPacket`) of 13 fields, 512 bits (R23; DEDUCED, safe, log 17). Float fields are bit patterns
(R24). -/
structure Record where
  deviceId : Vector Byte 16
  loopCnt : Word
  tipCnt : Word
  vbat : Word
  temperature : Word
  relativeHumidity : Word
  usbBytesRead : Word
  usbBytesWritten : Word
  usbErrorCnt : Word
  loraRxBytes : Word
  loraTxBytes : Word
  loraErrorCnt : Word
  hardwareErrOtherCnt : Word
deriving DecidableEq, Repr

/-- The record whose every field is 0: what `rsp_rec` holds in a response that carries no record (R75). -/
def Record.zero : Record :=
  { deviceId := Vector.replicate 16 0#8, loopCnt := 0, tipCnt := 0, vbat := 0, temperature := 0,
    relativeHumidity := 0, usbBytesRead := 0, usbBytesWritten := 0, usbErrorCnt := 0, loraRxBytes := 0,
    loraTxBytes := 0, loraErrorCnt := 0, hardwareErrOtherCnt := 0 }

/-- Why a payload does not decode (R103): the codec's `details` (R76). -/
inductive PayloadError where
  /-- `PAYLOAD_SHORT`: fewer bytes than the fixed layout's 64. -/
  | payloadShort
deriving DecidableEq, Repr

/-- The response of a step, one constructor per kind with the fields it carries (R75). -/
inductive Response where
  | rspNone
  | rspCrc (value : Word)
  | rspSerOk (bytesWritten : Word)
  | rspSerTooSmall
  | rspSerByte (byte : Byte)
  | rspSerEmpty
  | rspDesOk (record : Record)
  | rspDesInvalidLength
  | rspDesInvalidChecksum (provided : Word) (len : Fin 65) (payload : Vector Byte 64)
  | rspDesPayloadError (detail : PayloadError) (len : Fin 65)
  | rspIllegal
deriving DecidableEq, Repr

/-- The four states of the streaming decoder (R34). -/
inductive DesState where
  | readingMagic
  | readingLength
  | readingBytes
  | readingChecksum
deriving DecidableEq, Repr

/-- The 2-bit code of `des_state` (R34); no output shows it. -/
def DesState.code : DesState → BitVec 2
  | .readingMagic => 0
  | .readingLength => 1
  | .readingBytes => 2
  | .readingChecksum => 3

/-- The CRC checksum generator's state (R30). -/
structure Crcu where
  /-- `crc_acc`, the running remainder in reflected form before the final XOR -/
  crcAcc : Word
deriving DecidableEq, Repr

/-- The frame serializer's state (R31, R32, R33). -/
structure Ser where
  /-- `ser_frame[0..72)` -/
  serFrame : Vector Byte 72
  /-- `ser_len`, valid bytes in `ser_frame`: 0 or 72 -/
  serLen : Fin 73
  /-- `ser_rd`, index of the next byte handed out, at most `ser_len` -/
  serRd : Fin 73
deriving DecidableEq, Repr

/-- The streaming deserializer's state (R34 to R40). -/
structure Des where
  desState : DesState
  /-- `magic_idx`: how many magic bytes have matched in order -/
  magicIdx : Fin 3
  /-- `des_len`: payload length of the frame attempt, 0 to 64 -/
  desLen : Fin 65
  /-- `des_cnt`: payload bytes accumulated, 0 to 64 -/
  desCnt : Fin 65
  /-- `scratch[0..64)` -/
  scratch : Vector Byte 64
  /-- `crc_rx`: received checksum bytes, shifted in at the low end -/
  crcRx : Word
  /-- `crc_cnt`: checksum bytes collected, 0 to 3 -/
  crcCnt : Fin 4
deriving DecidableEq, Repr

/-- The model fault reasons of the spec, complete (R123). -/
inductive FaultReason where
  /-- `ZeroLengthPayload`, raised by DES_BYTE in `ReadingBytes` with `des_len = 0` when `ZERO_LEN_MODE = Fault`
  (R98). Safe: nothing is claimed of a run that reaches it. -/
  | zeroLengthPayload
deriving DecidableEq, Repr

/-- What the host gives RGC in one step: a command word with the record then on `rec_in` (R42, R43), or the reset
event, which falls between two commands (R132). -/
inductive HostInput where
  | command (cmd : CommandWord) (recIn : Record)
  | reset
deriving DecidableEq, Repr

/-- The state of RGC (R22) and its ports. -/
structure State where
  crcu : Crcu
  ser : Ser
  des : Des
  /-- `fault` (R41): the model's bookkeeping, sticky -/
  fault : Option FaultReason
  /-- `rec_in` (R43): the record on the input port in this step, not a copy RGC keeps -/
  recIn : Record
  /-- what the host will give, the next input first: the model's own field (DESIGN CHOICE, safe, log 1) -/
  pending : List HostInput
  /-- `rsp` (R45): the response of the last step, `none` where that step produced none (DEDUCED, safe, log 3) -/
  rsp : Option Response
deriving DecidableEq, Repr

/-- Why a step has no next state. -/
inductive Fault where
  /-- Raised by `step` in a state whose `fault` is set: a faulted machine takes no further step (R124). Safe. -/
  | faulted (reason : FaultReason)
  /-- Raised by DES_BYTE that would store a payload byte at index 64 of `scratch`: `ReadingBytes` with
  `des_len` not 0 and `des_cnt = 64`, a state the spec says needs no meaning (R46) and no run reaches. DEDUCED,
  safe (log 7). -/
  | illFormedDes
deriving DecidableEq, Repr

/-- Why a command has no meaning in the model. -/
inductive Refusal where
  /-- Raised by an arm of `exec` whose command is not modelled: none is left. Safe. -/
  | notModelled (mnemonic : String)
deriving DecidableEq, Repr

/-- CRCU after reset (R30, R132). -/
def Crcu.reset : Crcu := { crcAcc := Config.crcInit }

/-- SER after reset (R31, R32, R33, R132). -/
def Ser.reset : Ser := { serFrame := Vector.replicate 72 0#8, serLen := 0, serRd := 0 }

/-- DES after reset, a newly constructed decoder (R34 to R40, R132, R134). -/
def Des.reset : Des :=
  { desState := .readingMagic, magicIdx := 0, desLen := 0, desCnt := 0,
    scratch := Vector.replicate 64 0#8, crcRx := 0, crcCnt := 0 }

/-- The machine right after reset, at the start of a run: every register at its reset value, `fault` none
(R41, R132), no response. No input waits and `rec_in` holds zeros: the spec gives these ports no value
(DESIGN CHOICE, unsafe, log 9). -/
def State.reset : State :=
  { crcu := Crcu.reset, ser := Ser.reset, des := Des.reset, fault := none,
    recIn := Record.zero, pending := [], rsp := none }

end Sys2Proof.Machine
end

