-- ==== Sys2Proof/Machine/Ops.lean ====
section
/-! DEFINITION. The operations the meanings share: byte order, responding, recording a model fault, the return of DES
to `ReadingMagic`, and what the block does at its input port. -/

namespace Sys2Proof.Machine

/-! ## Byte order (R16, R51, R52, R55) -/

/-- `bytes_be32(v)`: the most significant byte first (R16). -/
def bytesBe32 (v : Word) : Vector Byte 4 :=
  #v[v.extractLsb' 24 8, v.extractLsb' 16 8, v.extractLsb' 8 8, v.extractLsb' 0 8]

/-- `be32(B[0..4))`: `B[0] ++ B[1] ++ B[2] ++ B[3]` (R16). -/
def be32 (b : Vector Byte 4) : Word := b[0] ++ b[1] ++ b[2] ++ b[3]

/-- `be32(S[off..off+4))` of a payload buffer (R16, R103). -/
def be32At (S : Vector Byte 64) (off : Nat) (h : off + 4 ≤ 64 := by decide) : Word :=
  be32 #v[S[off], S[off + 1], S[off + 2], S[off + 3]]

/-! ## Responses and model faults (R18) -/

/-- `respond(X)`: X is the response of the current step (R18, R45). -/
def State.respond (s : State) (r : Response) : State := { s with rsp := some r }

/-- The step produces no response (reset R132, an idle step log 2, a model fault R98). -/
def State.noResponse (s : State) : State := { s with rsp := none }

/-- `raise Fault(reason)`: the reason is recorded and no response is defined (R18, R41, R98). Nothing else of the
state is written. DEDUCED, unsafe for a claim about a faulted state (log 4). -/
def State.raise (s : State) (reason : FaultReason) : State := { s.noResponse with fault := some reason }

/-! ## Sub-units: a command writes the one it addresses and no other (R2, R61) -/

def State.withCrcu (s : State) (u : Crcu) : State := { s with crcu := u }

def State.withSer (s : State) (u : Ser) : State := { s with ser := u }

def State.withDes (s : State) (u : Des) : State := { s with des := u }

/-- What a DES error and every completed frame attempt change in place of a trap entry: DES returns to
`ReadingMagic` with the match index 0, "the sole guaranteed resynchronization point", and no other register
changes (R121, R95, R100). -/
def Des.returnToMagic (u : Des) : Des := { u with desState := .readingMagic, magicIdx := 0 }

/-! ## The input port -/

/-- Nothing is given: RGC holds its whole state (R107, R131), and there is no command to respond to.
DESIGN CHOICE, safe (log 2). -/
def State.idle (s : State) : State := s.noResponse

/-- The reset event (R132): every register takes its reset value at once and no response is produced. `fault` is
not cleared (R133). The ports are no registers and keep what the host gives. -/
def State.assertReset (s : State) : State :=
  { s.noResponse with crcu := Crcu.reset, ser := Ser.reset, des := Des.reset }

/-- The inputs still to come after this step's one has been taken (log 1). -/
def State.withPending (s : State) (rest : List HostInput) : State := { s with pending := rest }

/-- The step sees the record the host gives beside the command (R43). -/
def State.present (s : State) (recIn : Record) (rest : List HostInput) : State :=
  { s with recIn := recIn, pending := rest }

/-- The command word of an input, if it is a command. -/
def HostInput.word? : HostInput → Option CommandWord
  | .command cmd _ => some cmd
  | .reset => none

end Sys2Proof.Machine
end

