-- ==== Sys2Proof/Machine/Control.lean ====
section
/-! DEFINITION. NOP and the reserved opcodes (spec 43_control.md). -/

namespace Sys2Proof.Machine

/-- NOP: no state changes (R109). -/
def execNop (_data : Byte) (s : State) : Host.Outcome State Fault Refusal := .next (s.respond .rspNone)

/-- What every reserved opcode does: `RSP_ILLEGAL`, no state changes, no trap (R110, R118). -/
def State.illegalCommand (s : State) : State := s.respond .rspIllegal

/-- Reserved opcode `0x7` (R110). -/
def execReserved7 (_data : Byte) (s : State) : Host.Outcome State Fault Refusal := .next s.illegalCommand

/-- Reserved opcode `0x8` (R110). -/
def execReserved8 (_data : Byte) (s : State) : Host.Outcome State Fault Refusal := .next s.illegalCommand

/-- Reserved opcode `0x9` (R110). -/
def execReserved9 (_data : Byte) (s : State) : Host.Outcome State Fault Refusal := .next s.illegalCommand

/-- Reserved opcode `0xA` (R110). -/
def execReservedA (_data : Byte) (s : State) : Host.Outcome State Fault Refusal := .next s.illegalCommand

/-- Reserved opcode `0xB` (R110). -/
def execReservedB (_data : Byte) (s : State) : Host.Outcome State Fault Refusal := .next s.illegalCommand

/-- Reserved opcode `0xC` (R110). -/
def execReservedC (_data : Byte) (s : State) : Host.Outcome State Fault Refusal := .next s.illegalCommand

/-- Reserved opcode `0xD` (R110). -/
def execReservedD (_data : Byte) (s : State) : Host.Outcome State Fault Refusal := .next s.illegalCommand

/-- Reserved opcode `0xE` (R110). -/
def execReservedE (_data : Byte) (s : State) : Host.Outcome State Fault Refusal := .next s.illegalCommand

/-- Reserved opcode `0xF` (R110). -/
def execReservedF (_data : Byte) (s : State) : Host.Outcome State Fault Refusal := .next s.illegalCommand

end Sys2Proof.Machine
end

