-- ==== Sys2Proof/Machine/Operands.lean ====
section
/-! DEFINITION. The operand forms of RGC (spec 30_encoding.md R71): `data` is taken as an unsigned 8-bit value, with no
extension, scaling or shift. -/

namespace Sys2Proof.Machine

/-- The operand of CRC_BYTE and DES_BYTE: the data byte (R71). -/
def byteOperand (data : Byte) : Byte := data

/-- The operand of SER_ENCODE: the capacity in bytes of the host's destination, unsigned 0 to 255 (R71). -/
def capacityOperand (data : Byte) : Nat := data.toNat

end Sys2Proof.Machine
end

