-- ==== Sys2Proof/Machine/Crc.lean ====
section
/-! DEFINITION. The CRC function and the CRCU commands (spec 40_crc.md). -/

namespace Sys2Proof.Machine

/-- One pass of the loop of `crc_step`: shift right, and XOR the reflected polynomial if the bit shifted out is 1
(R78). -/
def crcBit (a : Word) : Word :=
  if a.getLsbD 0 then (a >>> 1) ^^^ Config.crcPolynomialReflected else a >>> 1

/-- `crc_step(acc, d)`: one byte, least significant bit first (R78). -/
def crcStep (acc : Word) (d : Byte) : Word := crcBit^[8] (acc ^^^ d.setWidth 32)

/-- The remainder after the bytes `bs`, from `acc`. -/
def crcUpdate (acc : Word) (bs : List Byte) : Word := bs.foldl crcStep acc

/-- `crc32(B)` (R79). -/
def crc32 (bs : List Byte) : Word := crcUpdate Config.crcInit bs ^^^ Config.crcFinalXor

/-- `crc_out = crc_acc ^ 0xFFFFFFFF`, in every state (R44). -/
def Crcu.crcOut (u : Crcu) : Word := u.crcAcc ^^^ Config.crcFinalXor

/-- The continuous output `crc_out` of the block (R44); reading it changes nothing (R59). -/
def State.crcOut (s : State) : Word := s.crcu.crcOut

/-- CRC_INIT: start a new CRC (R82). -/
def execCrcInit (_data : Byte) (s : State) : Host.Outcome State Fault Refusal :=
  .next ((s.withCrcu { crcAcc := Config.crcInit }).respond (.rspCrc 0x00000000))

/-- CRC_BYTE d: add one byte to the running CRC (R83). -/
def execCrcByte (d : Byte) (s : State) : Host.Outcome State Fault Refusal :=
  let a := crcStep s.crcu.crcAcc (byteOperand d)
  .next ((s.withCrcu { crcAcc := a }).respond (.rspCrc (a ^^^ Config.crcFinalXor)))

end Sys2Proof.Machine
end

