-- ==== Sys2Proof/Machine/Codec.lean ====
section
/-! DEFINITION. The fixed-layout field codec and the frame (spec 41_serializer.md R84, R86; 42_deserializer.md R103).
`pack` and `frame` are marked irreducible so that no proof unfolds 72 bytes by accident; `unfold` opens them. -/

namespace Sys2Proof.Machine

/-- `pack(rec)`: the fields in declaration order, each 32-bit field big-endian (R84, R52). -/
@[irreducible] def pack (r : Record) : Vector Byte 64 :=
  r.deviceId
    ++ bytesBe32 r.loopCnt ++ bytesBe32 r.tipCnt ++ bytesBe32 r.vbat
    ++ bytesBe32 r.temperature ++ bytesBe32 r.relativeHumidity
    ++ bytesBe32 r.usbBytesRead ++ bytesBe32 r.usbBytesWritten ++ bytesBe32 r.usbErrorCnt
    ++ bytesBe32 r.loraRxBytes ++ bytesBe32 r.loraTxBytes ++ bytesBe32 r.loraErrorCnt
    ++ bytesBe32 r.hardwareErrOtherCnt

/-- The record whose payload is `S`, offsets as in R103. -/
def unpackRecord (S : Vector Byte 64) : Record :=
  { deviceId := Vector.ofFn fun i : Fin 16 => S[i.val]
    loopCnt := be32At S 16
    tipCnt := be32At S 20
    vbat := be32At S 24
    temperature := be32At S 28
    relativeHumidity := be32At S 32
    usbBytesRead := be32At S 36
    usbBytesWritten := be32At S 40
    usbErrorCnt := be32At S 44
    loraRxBytes := be32At S 48
    loraTxBytes := be32At S 52
    loraErrorCnt := be32At S 56
    hardwareErrOtherCnt := be32At S 60 }

/-- `unpack(S, n)`: the only failure is a payload shorter than the layout's 64 bytes (R103). -/
def unpack (S : Vector Byte 64) (n : Fin 65) : Except PayloadError Record :=
  if n.val ≠ Config.payloadLen then .error .payloadShort else .ok (unpackRecord S)

/-- `frame(rec)`: MAGIC, LEN = 64, the payload, its CRC big-endian (R86, R66, R80). -/
@[irreducible] def frame (r : Record) : Vector Byte 72 :=
  Config.magic ++ #v[0x40#8] ++ pack r ++ bytesBe32 (crc32 (pack r).toList)

end Sys2Proof.Machine
end

