-- ==== Sys2Proof/Machine/Flags.lean ====
section
/-! DEFINITION. RGC has no status flags (spec 10_state.md R28): what a flag would tell stands in the response. This file
gives the response's fields with their widths and codes (30_encoding.md R75, R76) and the source's result
values behind them (R75, 42_deserializer.md R105). -/

namespace Sys2Proof.Machine

/-- The detail code of a payload error (R76, R103). -/
def PayloadError.code : PayloadError → BitVec 4
  | .payloadShort => 0x1

/-- `rsp_kind` (R75). -/
def Response.kind : Response → BitVec 4
  | .rspNone => 0x0
  | .rspCrc _ => 0x1
  | .rspSerOk _ => 0x2
  | .rspSerTooSmall => 0x3
  | .rspSerByte _ => 0x4
  | .rspSerEmpty => 0x5
  | .rspDesOk _ => 0x6
  | .rspDesInvalidLength => 0x7
  | .rspDesInvalidChecksum _ _ _ => 0x8
  | .rspDesPayloadError _ _ => 0x9
  | .rspIllegal => 0xE

/-- `rsp_data` (R75, R76); a field a kind does not carry is zero. -/
def Response.data : Response → Word
  | .rspCrc v => v
  | .rspSerOk n => n
  | .rspSerByte b => b.setWidth 32
  | .rspDesInvalidChecksum c _ _ => c
  | .rspNone | .rspSerTooSmall | .rspSerEmpty | .rspDesOk _ | .rspDesInvalidLength
  | .rspDesPayloadError _ _ | .rspIllegal => 0

/-- `rsp_len` (R76). -/
def Response.len : Response → BitVec 7
  | .rspDesInvalidChecksum _ n _ => BitVec.ofNat 7 n
  | .rspDesPayloadError _ n => BitVec.ofNat 7 n
  | .rspNone | .rspCrc _ | .rspSerOk _ | .rspSerTooSmall | .rspSerByte _ | .rspSerEmpty | .rspDesOk _
  | .rspDesInvalidLength | .rspIllegal => 0

/-- `rsp_detail` (R76). -/
def Response.detail : Response → BitVec 4
  | .rspDesPayloadError e _ => e.code
  | .rspNone | .rspCrc _ | .rspSerOk _ | .rspSerTooSmall | .rspSerByte _ | .rspSerEmpty | .rspDesOk _
  | .rspDesInvalidLength | .rspDesInvalidChecksum _ _ _ | .rspIllegal => 0

/-- `rsp_rec` (R76). -/
def Response.record : Response → Record
  | .rspDesOk r => r
  | .rspNone | .rspCrc _ | .rspSerOk _ | .rspSerTooSmall | .rspSerByte _ | .rspSerEmpty
  | .rspDesInvalidLength | .rspDesInvalidChecksum _ _ _ | .rspDesPayloadError _ _ | .rspIllegal => Record.zero

/-- `rsp_payload` (R76). -/
def Response.payload : Response → Vector Byte 64
  | .rspDesInvalidChecksum _ _ p => p
  | .rspNone | .rspCrc _ | .rspSerOk _ | .rspSerTooSmall | .rspSerByte _ | .rspSerEmpty | .rspDesOk _
  | .rspDesInvalidLength | .rspDesPayloadError _ _ | .rspIllegal => Vector.replicate 64 0#8

/-- A result item: the source's `Result<TelemetryPacket, DecodeError>` element (R21, R75, R105). The details of a
payload error are its detail code and the payload length (R76, R113, 93_implementation_defined.md I6). -/
inductive ResultItem where
  | ok (record : Record)
  | invalidLength
  | invalidChecksum (providedBytes : Vector Byte 4) (payload : Vector Byte 64) (len : Fin 65)
  | payloadError (details : PayloadError) (len : Fin 65)
deriving DecidableEq, Repr

/-- The result item a response carries: kinds `0x6` to `0x9` (R75). The bytes of the provided checksum are
`bytes_be32(rsp_data)` (R76). -/
def Response.resultItem : Response → Option ResultItem
  | .rspDesOk r => some (.ok r)
  | .rspDesInvalidLength => some .invalidLength
  | .rspDesInvalidChecksum c n p => some (.invalidChecksum (bytesBe32 c) p n)
  | .rspDesPayloadError e n => some (.payloadError e n)
  | .rspNone | .rspCrc _ | .rspSerOk _ | .rspSerTooSmall | .rspSerByte _ | .rspSerEmpty | .rspIllegal => none

/-- The encoder's only error (R113, R117). -/
inductive EncodeError where
  | bufferTooSmall
deriving DecidableEq, Repr

/-- The source's `Result<bytes_written, EncodeError>`: kinds `0x2` and `0x3` (R75). -/
def Response.encodeResult : Response → Option (Except EncodeError Word)
  | .rspSerOk n => some (.ok n)
  | .rspSerTooSmall => some (.error .bufferTooSmall)
  | .rspNone | .rspCrc _ | .rspSerByte _ | .rspSerEmpty | .rspDesOk _ | .rspDesInvalidLength
  | .rspDesInvalidChecksum _ _ _ | .rspDesPayloadError _ _ | .rspIllegal => none

/-- The errors RGC reports (R113). -/
inductive ReportedError where
  | invalidLength
  | invalidChecksum
  | payloadError
  | bufferTooSmall
  | illegalCommand
deriving DecidableEq, Repr

/-- The error a response reports, at most one (R113, R120). -/
def Response.error : Response → Option ReportedError
  | .rspDesInvalidLength => some .invalidLength
  | .rspDesInvalidChecksum _ _ _ => some .invalidChecksum
  | .rspDesPayloadError _ _ => some .payloadError
  | .rspSerTooSmall => some .bufferTooSmall
  | .rspIllegal => some .illegalCommand
  | .rspNone | .rspCrc _ | .rspSerOk _ | .rspSerByte _ | .rspSerEmpty | .rspDesOk _ => none

end Sys2Proof.Machine
end

