-- ==== Sys2Proof/Machine/Deserializer.lean ====
section
/-! DEFINITION. The streaming deserializer and the DES commands (spec 42_deserializer.md). The four arms of DES_BYTE are
functions of the DES state alone: they use no other sub-unit (R61). -/

namespace Sys2Proof.Machine

/-- What a byte does to DES: a new state with the response, a model fault to record, or nothing the spec gives. -/
inductive ByteOutcome where
  | done (u : Des) (rsp : Response)
  | raises (reason : FaultReason)
  | illFormed
deriving DecidableEq, Repr

/-- `ReadingMagic` (R91, R92): a byte equal to the expected magic byte advances the match, the third locks; any
other byte changes nothing and is not compared with `MAGIC[0]` (the defect this hardware reproduces). -/
def Des.readMagic (d : Byte) (u : Des) : ByteOutcome :=
  if d = Config.magic[u.magicIdx.val] then
    if h : u.magicIdx.val < 2 then .done { u with magicIdx := ⟨u.magicIdx.val + 1, by omega⟩ } .rspNone
    else .done { u with desState := .readingLength, magicIdx := 0 } .rspNone
  else .done u .rspNone

/-- `ReadingLength` (R95, R96): above 64 the attempt ends with `InvalidLength`; otherwise the length is taken, the
count and the scratch buffer are cleared. `magic_idx` is written with 0, as R95 and R121 say (DEDUCED, safe, log 14). -/
def Des.readLength (d : Byte) (u : Des) : ByteOutcome :=
  if h : d.toNat ≤ 64 then
    .done { u with desState := .readingBytes, desLen := ⟨d.toNat, by omega⟩, desCnt := 0,
                   scratch := Vector.replicate 64 0#8 } .rspNone
  else .done u.returnToMagic .rspDesInvalidLength

/-- `ReadingBytes` with `des_len = 0` (R98), by `ZERO_LEN_MODE`: the model fault, or the byte taken as a phantom
payload byte. The byte at index 0 is then part of the evidence of an `InvalidChecksum` (DEDUCED, log 15). -/
def Des.readZeroLength (mode : ZeroLenMode) (d : Byte) (u : Des) : ByteOutcome :=
  match mode with
  | .fault => .raises .zeroLengthPayload
  | .consumeOne =>
    .done { u with desState := .readingChecksum, scratch := u.scratch.set 0 d, desCnt := 1, crcCnt := 0 }
      .rspNone

/-- `ReadingBytes` with `des_len` at least 1 (R97): the byte is stored and counted; the byte that brings the count
to `des_len` is the last payload byte. An index of 64 is outside `scratch` and outside every well-formed state
(R46, R49; log 7). -/
def Des.readPayload (d : Byte) (u : Des) : ByteOutcome :=
  if h : u.desCnt.val < 64 then
    let n : Fin 65 := ⟨u.desCnt.val + 1, by omega⟩
    let stored := { u with scratch := u.scratch.set u.desCnt.val d, desCnt := n }
    if n = u.desLen then .done { stored with desState := .readingChecksum, crcCnt := 0 } .rspNone
    else .done stored .rspNone
  else .illFormed

/-- The payload of the frame attempt, `scratch[0..des_len)` (R100). -/
def Des.payloadBytes (u : Des) : List Byte := u.scratch.toList.take u.desLen

/-- The result of a completed frame attempt whose four checksum bytes give `c`: the CRC is compared first, and the
payload is decoded only if it matches (R100, R101, R102, R120). -/
def Des.verdict (c : Word) (u : Des) : Response :=
  if crc32 u.payloadBytes = c then
    match unpack u.scratch u.desLen with
    | .ok r => .rspDesOk r
    | .error e => .rspDesPayloadError e u.desLen
  else .rspDesInvalidChecksum c u.desLen u.scratch

/-- `crc_rx` with one more checksum byte shifted in at the low end, truncated to 32 bits (R99). -/
def shiftInByte (crcRx : Word) (d : Byte) : Word := (crcRx <<< 8) ||| d.setWidth 32

/-- `ReadingChecksum` (R99, R100): three bytes are counted, the fourth completes the attempt and returns DES to
`ReadingMagic`; `des_len`, `des_cnt` and `scratch` keep their values. -/
def Des.readChecksum (d : Byte) (u : Des) : ByteOutcome :=
  let c := shiftInByte u.crcRx d
  if h : u.crcCnt.val < 3 then
    .done { u with crcRx := c, crcCnt := ⟨u.crcCnt.val + 1, by omega⟩ } .rspNone
  else .done { u.returnToMagic with crcRx := c, crcCnt := 0 } (u.verdict c)

/-- DES_BYTE as a function of `ZERO_LEN_MODE`, the byte and the DES state (R90). -/
def Des.consume (mode : ZeroLenMode) (d : Byte) (u : Des) : ByteOutcome :=
  match u.desState with
  | .readingMagic => u.readMagic d
  | .readingLength => u.readLength d
  | .readingBytes => if u.desLen.val = 0 then u.readZeroLength mode d else u.readPayload d
  | .readingChecksum => u.readChecksum d

/-- What a byte outcome does to the machine: DES and the response written, or the model fault recorded. -/
def ByteOutcome.apply (o : ByteOutcome) (s : State) : Host.Outcome State Fault Refusal :=
  match o with
  | .done u r => .next ((s.withDes u).respond r)
  | .raises reason => .next (s.raise reason)
  | .illFormed => .fault .illFormedDes

/-- DES_BYTE d: consume one byte of the input stream (R90). -/
def execDesByte (d : Byte) (s : State) : Host.Outcome State Fault Refusal :=
  (s.des.consume Config.zeroLenMode (byteOperand d)).apply s

/-- DES_RESET: start a new decoder instance; a frame attempt in progress is abandoned, `fault` is not cleared
(R108). -/
def execDesReset (_data : Byte) (s : State) : Host.Outcome State Fault Refusal :=
  .next ((s.withDes Des.reset).respond .rspNone)

/-- A byte stream given to DES: the state and the responses, in order; `none` if a byte stops it (R98, log 7). -/
def Des.feed (mode : ZeroLenMode) : List Byte → Des → Option (Des × List Response)
  | [], u => some (u, [])
  | d :: ds, u =>
    match u.consume mode d with
    | .done u' r => (Des.feed mode ds u').map fun (v, rs) => (v, r :: rs)
    | .raises _ | .illFormed => none

/-- The result items of a run of responses, in order (R105). -/
def resultItems (rs : List Response) : List ResultItem := rs.filterMap Response.resultItem

end Sys2Proof.Machine
end

