-- ==== Sys2Proof/Machine/Serializer.lean ====
section
/-! DEFINITION. The SER commands (spec 41_serializer.md R87, R88). -/

namespace Sys2Proof.Machine

/-- SER after a successful SER_ENCODE of a record: its frame, all of it still to be pulled (R87). -/
def Ser.load (r : Record) : Ser := { serFrame := frame r, serLen := 72, serRd := 0 }

/-- SER_ENCODE cap: pack the record on `rec_in` into a frame if the host's destination can hold it; otherwise
answer `BufferTooSmall` and change nothing (R87, R117). -/
def execSerEncode (cap : Byte) (s : State) : Host.Outcome State Fault Refusal :=
  if capacityOperand cap < Config.frameLen then .next (s.respond .rspSerTooSmall)
  else .next ((s.withSer (Ser.load s.recIn)).respond (.rspSerOk 72))

/-- SER_PULL: hand out the next byte of the frame, or answer that there is none (R88). -/
def execSerPull (_data : Byte) (s : State) : Host.Outcome State Fault Refusal :=
  if h : s.ser.serRd < s.ser.serLen then
    have in_frame : s.ser.serRd.val < 72 := by have := s.ser.serLen.isLt; have := Fin.lt_def.mp h; omega
    .next ((s.withSer { s.ser with serRd := ⟨s.ser.serRd.val + 1, by omega⟩ }).respond
      (.rspSerByte s.ser.serFrame[s.ser.serRd.val]))
  else .next (s.respond .rspSerEmpty)

end Sys2Proof.Machine
end

