-- ==== Sys2Proof/Machine/Dispatch.lean ====
section
/-! DEFINITION. One arm per command: the meaning it calls. -/

namespace Sys2Proof.Machine

def exec (i : Instr) (s : State) : Host.Outcome State Fault Refusal :=
  match i with
  | .nop data => Sys2Proof.Machine.execNop data s
  | .crcInit data => Sys2Proof.Machine.execCrcInit data s
  | .crcByte d => Sys2Proof.Machine.execCrcByte d s
  | .serEncode cap => Sys2Proof.Machine.execSerEncode cap s
  | .serPull data => Sys2Proof.Machine.execSerPull data s
  | .desByte d => Sys2Proof.Machine.execDesByte d s
  | .desReset data => Sys2Proof.Machine.execDesReset data s
  | .reserved7 data => Sys2Proof.Machine.execReserved7 data s
  | .reserved8 data => Sys2Proof.Machine.execReserved8 data s
  | .reserved9 data => Sys2Proof.Machine.execReserved9 data s
  | .reservedA data => Sys2Proof.Machine.execReservedA data s
  | .reservedB data => Sys2Proof.Machine.execReservedB data s
  | .reservedC data => Sys2Proof.Machine.execReservedC data s
  | .reservedD data => Sys2Proof.Machine.execReservedD data s
  | .reservedE data => Sys2Proof.Machine.execReservedE data s
  | .reservedF data => Sys2Proof.Machine.execReservedF data s

end Sys2Proof.Machine
end

