-- ==== Sys2Proof/Machine/Step.lean ====
section
/-! DEFINITION. One step of the machine, and how the host's next command is placed. -/

namespace Sys2Proof.Machine

/-- One step. A faulted machine has none (R124). Otherwise the host's next input is taken: a command is decoded and
executed with the record given beside it (R21, R43), the reset event sets every register (R132), and with no input
the state is held (log 2). -/
def step (s : State) : Host.Outcome State Fault Refusal :=
  match s.fault with
  | some reason => .fault (.faulted reason)
  | none =>
    match s.pending with
    | [] => .next s.idle
    | .reset :: rest => .next (s.withPending rest).assertReset
    | .command cmd recIn :: rest => exec (decodeWord cmd) (s.present recIn rest)

/-- The state with a command word as the host's next input, so that the very next step runs it; the record on
`rec_in` stays as it is. This stands for the host's giving the command (DESIGN CHOICE, safe, log 10). -/
def State.withFetchWord (s : State) (nbits w : Nat) : State :=
  s.withPending (.command (BitVec.ofNat 12 (w % 2 ^ nbits)) s.recIn :: s.pending)

end Sys2Proof.Machine
end

