-- ==== Sys2Proof/Machine/Assembler.lean ====
section
/-! DEFINITION. The assembly notation of spec 30_encoding.md R73 and R74: expansion, command words, and the text of a
line. What R73 does not state of the text is the model's choice (DESIGN CHOICE, log 11). -/

namespace Sys2Proof.Machine

/-- The command word of a written command (R73). -/
def commandWord : AsmCommand → CommandWord
  | .nop => 0x000#12
  | .crcInit => 0x100#12
  | .crcByte d => 0x200#12 ||| BitVec.ofNat 12 d
  | .serEncode cap => 0x300#12 ||| BitVec.ofNat 12 cap
  | .serPull => 0x400#12
  | .desByte d => 0x500#12 ||| BitVec.ofNat 12 d
  | .desReset => 0x600#12
  | .word w => BitVec.ofNat 12 w

/-- The commands a line stands for: a pseudo-instruction is replaced by its expansion (R74). -/
def expandLine : AsmLine → List AsmCommand
  | .command c => [c]
  | .crcBytes bs => bs.map .crcByte
  | .crcCompute bs => .crcInit :: bs.map .crcByte
  | .desFeed bs => bs.map .desByte
  | .serDrain => List.replicate 72 .serPull
  | .serSend cap => .serEncode cap :: List.replicate 72 .serPull

/-- The command words of a program, `none` if a line fails the check of R73. -/
def assemble (ls : List AsmLine) : Option (List CommandWord) :=
  if ls.all AsmLine.wf then some (ls.flatMap fun l => (expandLine l).map commandWord) else none

/-! ## The text of a line -/

/-- Why a line of text is not a line of the notation. -/
inductive AsmError where
  /-- The first word of the line is no mnemonic of R73 or R74. Safe. -/
  | unknownMnemonic
  /-- An operand is missing, is not a number, or is given to a mnemonic that takes none (R73). Safe. -/
  | badOperand
  /-- An operand is outside its range (R73). Safe. -/
  | outOfRange
deriving DecidableEq, Repr

/-- The line up to its comment: `;` starts one, unless it stands inside a quoted string (log 11). -/
def dropComment : Bool → List Char → List Char
  | _, [] => []
  | quoted, c :: cs =>
    if c = ';' ∧ quoted = false then []
    else c :: dropComment (if c = '"' then !quoted else quoted) cs

def isBlank (c : Char) : Bool := c = ' ' || c = '\t'

def trimBlanks (cs : List Char) : List Char :=
  ((cs.dropWhile isBlank).reverse.dropWhile isBlank).reverse

/-- The value of a digit in base 10 or 16; both cases of a hexadecimal digit are read (log 11). -/
def digitValue (base : Nat) (c : Char) : Option Nat :=
  let v :=
    if '0' ≤ c ∧ c ≤ '9' then c.toNat - '0'.toNat
    else if 'A' ≤ c ∧ c ≤ 'F' then c.toNat - 'A'.toNat + 10
    else if 'a' ≤ c ∧ c ≤ 'f' then c.toNat - 'a'.toNat + 10
    else base
  if v < base then some v else none

def digitsValue (base acc : Nat) : List Char → Option Nat
  | [] => some acc
  | c :: cs =>
    match digitValue base c with
    | some v => digitsValue base (acc * base + v) cs
    | none => none

/-- An operand "as `0x` hexadecimal or decimal" (R73). -/
def readNumber (cs : List Char) : Option Nat :=
  match cs with
  | '0' :: 'x' :: c :: ds => digitsValue 16 0 (c :: ds)
  | c :: ds => digitsValue 10 0 (c :: ds)
  | [] => none

/-- The parts of a text between its commas. -/
def splitAtCommas : List Char → List (List Char)
  | [] => [[]]
  | c :: cs =>
    if c = ',' then [] :: splitAtCommas cs
    else
      match splitAtCommas cs with
      | part :: parts => (c :: part) :: parts
      | [] => [[c]]

/-- All values of a list, if each has one. -/
def allSome : List (Option Nat) → Option (List Nat)
  | [] => some []
  | some v :: vs => (allSome vs).map (v :: ·)
  | none :: _ => none

/-- The bytes of a quoted ASCII string, "meaning its bytes in order" (R74), read after its opening quote. -/
def readQuoted : List Char → Option (List Nat)
  | ['"'] => some []
  | c :: cs => if c.toNat < 128 ∧ c ≠ '"' then (readQuoted cs).map (c.toNat :: ·) else none
  | [] => none

/-- A byte list: numbers between commas, or one quoted string (R74). -/
def readBytes (cs : List Char) : Option (List Nat) :=
  match cs with
  | '"' :: rest => readQuoted rest
  | _ => allSome ((splitAtCommas cs).map fun part => readNumber (trimBlanks part))

/-- The line of a mnemonic that takes no operand. -/
def lineWithout (l : AsmLine) (args : List Char) : Except AsmError AsmLine :=
  if args = [] then .ok l else .error .badOperand

/-- The line of a mnemonic with one operand. -/
def lineWithOne (l : Nat → AsmLine) (args : List Char) : Except AsmError AsmLine :=
  match readNumber args with
  | some v => if (l v).wf then .ok (l v) else .error .outOfRange
  | none => .error .badOperand

/-- The line of a mnemonic with a byte list. -/
def lineWithBytes (l : List Nat → AsmLine) (args : List Char) : Except AsmError AsmLine :=
  match readBytes args with
  | some vs => if (l vs).wf then .ok (l vs) else .error .outOfRange
  | none => .error .badOperand

/-- The line of a mnemonic with its operand text (R73, R74). -/
def readCommand (mnemonic : String) (args : List Char) : Except AsmError AsmLine :=
  match mnemonic with
  | "nop" => lineWithout (.command .nop) args
  | "crc.init" => lineWithout (.command .crcInit) args
  | "crc.byte" => lineWithOne (fun d => .command (.crcByte d)) args
  | "ser.encode" => lineWithOne (fun cap => .command (.serEncode cap)) args
  | "ser.pull" => lineWithout (.command .serPull) args
  | "des.byte" => lineWithOne (fun d => .command (.desByte d)) args
  | "des.reset" => lineWithout (.command .desReset) args
  | ".word" => lineWithOne (fun w => .command (.word w)) args
  | "crc.bytes" => lineWithBytes .crcBytes args
  | "crc.compute" => lineWithBytes .crcCompute args
  | "des.feed" => lineWithBytes .desFeed args
  | "ser.drain" => lineWithout .serDrain args
  | "ser.send" => lineWithOne .serSend args
  | _ => .error .unknownMnemonic

/-- One line of text: one command, or nothing but blanks and a comment (R73). -/
def readLine (text : List Char) : Except AsmError (Option AsmLine) :=
  match trimBlanks (dropComment false text) with
  | [] => .ok none
  | c :: cs =>
    (readCommand (String.ofList ((c :: cs).takeWhile fun x => !isBlank x))
      (trimBlanks ((c :: cs).dropWhile fun x => !isBlank x))).map some

/-- The lines of a program text, "one command per line" (R73). -/
def readProgram : List (List Char) → Except AsmError (List AsmLine)
  | [] => .ok []
  | text :: texts =>
    match readLine text, readProgram texts with
    | .ok (some l), .ok ls => .ok (l :: ls)
    | .ok none, .ok ls => .ok ls
    | .error e, _ => .error e
    | _, .error e => .error e

end Sys2Proof.Machine
end

