-- ==== Sys2Proof/Safety.lean ====
section
/-! DEFINITION. What claims about RGC are stated with: the well-formed states (spec 10_state.md R46) and runs with the
responses of their steps (42_deserializer.md R105). -/

namespace Sys2Proof.Machine

/-- SER part of R46. -/
structure Ser.WellFormed (u : Ser) : Prop where
  serLen_legal : u.serLen = 0 ∨ u.serLen = 72
  serRd_le : u.serRd ≤ u.serLen

/-- DES part of R46; that `crc_cnt` is 0 outside `ReadingChecksum` is R40. -/
structure Des.WellFormed (mode : ZeroLenMode) (u : Des) : Prop where
  magicIdx_zero : u.desState ≠ .readingMagic → u.magicIdx = 0
  readingBytes : u.desState = .readingBytes →
    (1 ≤ u.desLen.val ∧ u.desCnt < u.desLen) ∨ (u.desLen = 0 ∧ u.desCnt = 0)
  readingChecksum : u.desState = .readingChecksum →
    (1 ≤ u.desLen.val ∧ u.desCnt = u.desLen) ∨ (u.desLen = 0 ∧ u.desCnt = 1 ∧ mode = .consumeOne)
  crcCnt_zero : u.desState ≠ .readingChecksum → u.crcCnt = 0
  scratch_zero : ∀ i : Fin 64, u.desCnt.val ≤ i.val → u.scratch[i.val] = 0#8

/-- The well-formed states of R46. -/
structure State.WellFormed (s : State) : Prop where
  ser : s.ser.WellFormed
  des : s.des.WellFormed Config.zeroLenMode

/-- Every register holds the value R132 lists. -/
structure State.RegistersAtReset (s : State) : Prop where
  crcAcc : s.crcu.crcAcc = 0xFFFFFFFF#32
  serFrame : ∀ i : Fin 72, s.ser.serFrame[i.val] = 0x00#8
  serLen : s.ser.serLen = 0
  serRd : s.ser.serRd = 0
  desState : s.des.desState = .readingMagic
  magicIdx : s.des.magicIdx = 0
  desLen : s.des.desLen = 0
  desCnt : s.des.desCnt = 0
  scratch : ∀ i : Fin 64, s.des.scratch[i.val] = 0x00#8
  crcRx : s.des.crcRx = 0x00000000#32
  crcCnt : s.des.crcCnt = 0

/-- `ser_frame` holds the frame of a record with all its bytes valid, or nothing has been encoded since reset
(R31, R32). -/
def Ser.HoldsFrame (u : Ser) : Prop :=
  (u.serLen = 0 ∧ u.serFrame = Vector.replicate 72 0#8) ∨ (u.serLen = 72 ∧ ∃ r, u.serFrame = frame r)

/-- Two machines that the deserializer cannot tell apart: same DES state and same fault, and the host gives the same
command words and resets; CRCU, SER, the records and the last response may differ. -/
structure State.AgreeOnDes (s t : State) : Prop where
  des : s.des = t.des
  fault : s.fault = t.fault
  words : s.pending.map HostInput.word? = t.pending.map HostInput.word?

/-- `k` steps from a state, with the response of each step (`none` where a step produced no response). -/
def run : Nat → State → Host.Outcome (State × List (Option Response)) Fault Refusal
  | 0, s => .next (s, [])
  | k + 1, s =>
    match step s with
    | .next t =>
      match run k t with
      | .next (u, rs) => .next (u, t.rsp :: rs)
      | .fault r => .fault r
      | .refused r => .refused r
    | .fault r => .fault r
    | .refused r => .refused r

/-- The inputs give these commands, in this order, with any records on `rec_in`. -/
def givesCommands (inputs : List HostInput) (is : List Instr) : Prop :=
  inputs.map HostInput.word? = is.map fun i => some (encode i)

/-- The sub-unit a command addresses (R70). -/
inductive SubUnit where
  | crcu
  | ser
  | des
deriving DecidableEq, Repr

/-- The sub-unit of a command (R70); NOP and the reserved opcodes address none. -/
def subUnit : Instr → Option SubUnit
  | .crcInit _ | .crcByte _ => some .crcu
  | .serEncode _ | .serPull _ => some .ser
  | .desByte _ | .desReset _ => some .des
  | .nop _ | .reserved7 _ | .reserved8 _ | .reserved9 _ | .reservedA _ | .reservedB _ | .reservedC _
  | .reservedD _ | .reservedE _ | .reservedF _ => none

end Sys2Proof.Machine
end

