-- ==== Sys2Proof/Certificates/Slice0/Obligations.lean ====
section
/-! DEFINITION. The statements about RGC, each from a rule of spec/ named in its docstring. Statements about one command
give the whole next state, so what the command leaves unchanged is said by the same equation. -/

open Sys2Proof Sys2Proof.Machine

/-! ## Reset and faults -/

/-- R132 (the event as an input of the step is the model's form, log 1): the reset event sets every register to its
reset value and produces no response; `State.reset` has the same register values; the event does to CRCU and DES what
CRC_INIT and DES_RESET do. -/
def Obligations.ResetEventSetsEveryRegister : Prop :=
  (∀ (s : State) (rest : List HostInput), s.fault = none → s.pending = .reset :: rest →
    ∃ t, step s = .next t ∧ t.RegistersAtReset ∧ t.rsp = none ∧ t.fault = none ∧ t.recIn = s.recIn ∧
      t.pending = rest) ∧
  State.reset.RegistersAtReset ∧ State.reset.rsp = none ∧
  (∀ (s t u : State) (a b : Byte), exec (.crcInit a) s = .next t → exec (.desReset b) t = .next u →
    u.crcu = s.assertReset.crcu ∧ u.des = s.assertReset.des)

/-- R124, R133: once `fault` is set no step follows, no command clears it, and the reset event does not clear it. -/
def Obligations.RecordedFaultIsNeverCleared : Prop :=
  (∀ (s : State) (r : FaultReason), s.fault = some r → step s = .fault (.faulted r)) ∧
  (∀ (i : Instr) (s t : State) (r : FaultReason), s.fault = some r → exec i s = .next t → t.fault = some r) ∧
  (∀ s : State, s.assertReset.fault = s.fault) ∧ State.reset.fault = none

/-! ## CRCU -/

/-- R82: CRC_INIT. -/
def Obligations.CrcInitStartsNewCrc : Prop :=
  ∀ (data : Byte) (s : State),
    decodeWord (0x1#4 ++ data) = .crcInit data ∧
    exec (.crcInit data) s =
      .next { s with crcu := { crcAcc := 0xFFFFFFFF#32 }, rsp := some (.rspCrc 0x00000000#32) }

/-- R83: CRC_BYTE, and `crc_out` after it (R44). -/
def Obligations.CrcByteAddsOneByte : Prop :=
  ∀ (d : Byte) (s : State),
    decodeWord (0x2#4 ++ d) = .crcByte d ∧
    ∃ t, exec (.crcByte d) s = .next t ∧
      t = { s with crcu := { crcAcc := crcStep s.crcu.crcAcc d }, rsp := some (.rspCrc t.crcOut) } ∧
      t.crcOut = crcStep s.crcu.crcAcc d ^^^ 0xFFFFFFFF#32

/-- R83, R79 (derived corner case): after CRC_INIT and the bytes `bs`, of any number, `crc_out` is `crc32(bs)`, and
it is the response of the last command. -/
def Obligations.CrcStreamComputesCrc32 : Prop :=
  ∀ (s : State) (inputs rest : List HostInput) (data : Byte) (bs : List Byte),
    s.fault = none → s.pending = inputs ++ rest →
    givesCommands inputs (.crcInit data :: bs.map .crcByte) →
    ∃ t rs, run (bs.length + 1) s = .next (t, rs) ∧ t.crcOut = crc32 bs ∧
      t.rsp = some (.rspCrc (crc32 bs)) ∧ t.pending = rest ∧ t.ser = s.ser ∧ t.des = s.des ∧ t.fault = none

/-- R78: the loop of `crc_step`, and that it is linear over GF(2). -/
def Obligations.CrcStepIsLinear : Prop :=
  (∀ (acc : Word) (d : Byte), crcStep acc d =
    (List.range 8).foldl (fun a _ => if a.getLsbD 0 then (a >>> 1) ^^^ 0xEDB88320#32 else a >>> 1)
      (acc ^^^ d.setWidth 32)) ∧
  (∀ a b : Word, crcStep (a ^^^ b) 0 = crcStep a 0 ^^^ crcStep b 0) ∧ crcStep 0 0 = 0

/-- One byte in the normal form of the CRC: the bits of `d` enter at the top, most significant first, and the
polynomial `0x04C11DB7` is XORed when the bit shifted out is 1 (R77, polynomial in normal form). -/
def crcNormalBit (a : Word) : Word :=
  if a.getLsbD 31 then (a <<< 1) ^^^ 0x04C11DB7#32 else a <<< 1

/-- The CRC with the parameters of R77 spelled out: initial value, each byte reflected on input, the remainder
reflected on output, final XOR. -/
def crcByParameters (bs : List Byte) : Word :=
  (bs.foldl (fun (a : Word) (d : Byte) => crcNormalBit^[8] (a ^^^ (d.reverse.setWidth 32 <<< 24)))
    0xFFFFFFFF#32).reverse
    ^^^ 0xFFFFFFFF#32

/-- R77: `crc32` is the CRC of width 32 with polynomial `0x04C11DB7`, reflected input and output, initial value and
final XOR `0xFFFFFFFF`; its reflected constant is `0xEDB88320` and its check value `0xCBF43926`. -/
def Obligations.Crc32HasTheStatedParameters : Prop :=
  (∀ bs : List Byte, crc32 bs = crcByParameters bs) ∧
  (0x04C11DB7#32).reverse = 0xEDB88320#32 ∧
  crc32 [0x31, 0x32, 0x33, 0x34, 0x35, 0x36, 0x37, 0x38, 0x39] = 0xCBF43926#32

/-! ## SER -/

/-- R84: the payload offsets of the fields, each 32-bit field big-endian. -/
def Obligations.PackPlacesFieldsAtOffsets : Prop :=
  ∀ r : Record,
    (∀ k : Fin 16, (pack r)[k.val] = r.deviceId[k.val]) ∧
    (∀ k : Fin 4, (pack r)[16 + k.val] = (bytesBe32 r.loopCnt)[k.val]) ∧
    (∀ k : Fin 4, (pack r)[20 + k.val] = (bytesBe32 r.tipCnt)[k.val]) ∧
    (∀ k : Fin 4, (pack r)[24 + k.val] = (bytesBe32 r.vbat)[k.val]) ∧
    (∀ k : Fin 4, (pack r)[28 + k.val] = (bytesBe32 r.temperature)[k.val]) ∧
    (∀ k : Fin 4, (pack r)[32 + k.val] = (bytesBe32 r.relativeHumidity)[k.val]) ∧
    (∀ k : Fin 4, (pack r)[36 + k.val] = (bytesBe32 r.usbBytesRead)[k.val]) ∧
    (∀ k : Fin 4, (pack r)[40 + k.val] = (bytesBe32 r.usbBytesWritten)[k.val]) ∧
    (∀ k : Fin 4, (pack r)[44 + k.val] = (bytesBe32 r.usbErrorCnt)[k.val]) ∧
    (∀ k : Fin 4, (pack r)[48 + k.val] = (bytesBe32 r.loraRxBytes)[k.val]) ∧
    (∀ k : Fin 4, (pack r)[52 + k.val] = (bytesBe32 r.loraTxBytes)[k.val]) ∧
    (∀ k : Fin 4, (pack r)[56 + k.val] = (bytesBe32 r.loraErrorCnt)[k.val]) ∧
    (∀ k : Fin 4, (pack r)[60 + k.val] = (bytesBe32 r.hardwareErrOtherCnt)[k.val])

/-- R86: the bytes of a frame. -/
def Obligations.FrameIsMagicLenPayloadCrc : Prop :=
  ∀ r : Record,
    (frame r).toList =
      [0x7D#8, 0x08#8, 0x8D#8] ++ [0x40#8] ++ (pack r).toList ++ (bytesBe32 (crc32 (pack r).toList)).toList ∧
    (frame r).toList.length = 3 + 1 + 64 + 4

/-- R87: SER_ENCODE at every capacity. -/
def Obligations.SerEncodeFramesRecordOrRefuses : Prop :=
  ∀ (cap : Byte) (s : State),
    decodeWord (0x3#4 ++ cap) = .serEncode cap ∧
    (cap.toNat < 72 → exec (.serEncode cap) s = .next { s with rsp := some .rspSerTooSmall }) ∧
    (72 ≤ cap.toNat → exec (.serEncode cap) s =
      .next { s with ser := { serFrame := frame s.recIn, serLen := 72, serRd := 0 },
                     rsp := some (.rspSerOk 72#32) })

/-- R88: SER_PULL with and without a byte to hand out. -/
def Obligations.SerPullHandsOutNextByte : Prop :=
  ∀ (data : Byte) (s : State),
    decodeWord (0x4#4 ++ data) = .serPull data ∧
    (s.ser.serRd < s.ser.serLen →
      ∃ (in_frame : s.ser.serRd.val < 72) (rd : Fin 73), rd.val = s.ser.serRd.val + 1 ∧
        exec (.serPull data) s =
          .next { s with ser := { s.ser with serRd := rd },
                         rsp := some (.rspSerByte s.ser.serFrame[s.ser.serRd.val]) }) ∧
    (¬ s.ser.serRd < s.ser.serLen → exec (.serPull data) s = .next { s with rsp := some .rspSerEmpty })

/-- R88, R87 (derived corner case): after a successful SER_ENCODE the next 72 SER_PULLs hand out exactly the bytes
of the frame, in order, and one more answers that there is none. -/
def Obligations.PullsHandOutWholeFrameThenNothing : Prop :=
  ∀ (s : State) (inputs rest : List HostInput) (cap : Byte) (r : Record) (pulls : List Byte),
    s.fault = none → 72 ≤ cap.toNat → pulls.length = 73 →
    s.pending = .command (encode (.serEncode cap)) r :: (inputs ++ rest) →
    givesCommands inputs (pulls.map .serPull) →
    ∃ t, run 74 s =
        .next (t, [some (.rspSerOk 72#32)] ++ (frame r).toList.map (fun b => some (.rspSerByte b))
          ++ [some .rspSerEmpty]) ∧
      t.ser = { serFrame := frame r, serLen := 72, serRd := 72 } ∧ t.pending = rest ∧ t.crcu = s.crcu ∧
      t.des = s.des ∧ t.fault = none

/-- R85, R104 (derived): `pack` and `unpack` are inverse to each other, on every record and every 64 bytes. -/
def Obligations.PackAndUnpackAreInverse : Prop :=
  (∀ r : Record, unpack (pack r) 64 = .ok r) ∧
  (∀ (S : Vector Byte 64) (r : Record), unpack S 64 = .ok r → pack r = S)

/-! ## DES, byte by byte -/

/-- R91, R6: in `ReadingMagic` the expected magic byte advances the match, and the third one locks. -/
def Obligations.MagicByteAdvancesOrLocks : Prop :=
  Config.magic = #v[0x7D#8, 0x08#8, 0x8D#8] ∧
  ∀ (s : State) (d : Byte), s.des.desState = .readingMagic → d = Config.magic[s.des.magicIdx.val] →
    (∀ j : Fin 3, j.val = s.des.magicIdx.val + 1 →
      exec (.desByte d) s = .next { s with des := { s.des with magicIdx := j }, rsp := some .rspNone }) ∧
    (s.des.magicIdx = 2 →
      exec (.desByte d) s =
        .next { s with des := { s.des with desState := .readingLength, magicIdx := 0 },
                       rsp := some .rspNone })

/-- R92, the flagged defect: in `ReadingMagic` any other byte changes nothing. -/
def Obligations.MismatchingByteKeepsMagicIndex : Prop :=
  ∀ (s : State) (d : Byte), s.des.desState = .readingMagic → d ≠ Config.magic[s.des.magicIdx.val] →
    exec (.desByte d) s = .next { s with rsp := some .rspNone }

/-- R95: in `ReadingLength` a byte above 64 is an invalid length. -/
def Obligations.LengthAboveSixtyFourIsInvalid : Prop :=
  ∀ (s : State) (d : Byte), s.des.desState = .readingLength → 64 < d.toNat →
    exec (.desByte d) s =
      .next { s with des := { s.des with desState := .readingMagic, magicIdx := 0 },
                     rsp := some .rspDesInvalidLength }

/-- R96: in `ReadingLength` a byte up to 64 is the payload length, and the scratch buffer is zeroed. -/
def Obligations.AcceptedLengthZeroesScratch : Prop :=
  ∀ (s : State) (d : Byte) (n : Fin 65), s.des.desState = .readingLength → n.val = d.toNat →
    ∃ zeroed : Vector Byte 64, (∀ i : Fin 64, zeroed[i.val] = 0x00#8) ∧
      exec (.desByte d) s =
        .next { s with des := { s.des with desState := .readingBytes, desLen := n, desCnt := 0,
                                           scratch := zeroed },
                       rsp := some .rspNone }

/-- R97: in `ReadingBytes` with `des_len` at least 1 each byte is stored and counted, and the byte that brings the
count to `des_len` is the last. The hypothesis `des_cnt < 64` is what R97 derives for the well-formed states. -/
def Obligations.PayloadByteIsStoredAndCounted : Prop :=
  ∀ (s : State) (d : Byte) (n : Fin 65), s.des.desState = .readingBytes → 1 ≤ s.des.desLen.val →
    n.val = s.des.desCnt.val + 1 →
    ∃ in_range : s.des.desCnt.val < 64,
      (n = s.des.desLen → exec (.desByte d) s =
        .next { s with des := { s.des with desState := .readingChecksum, desCnt := n, crcCnt := 0,
                                           scratch := s.des.scratch.set s.des.desCnt.val d },
                       rsp := some .rspNone }) ∧
      (n ≠ s.des.desLen → exec (.desByte d) s =
        .next { s with des := { s.des with desCnt := n,
                                           scratch := s.des.scratch.set s.des.desCnt.val d },
                       rsp := some .rspNone })

/-- The model's own stop (log 7), for the states R46 says need no meaning: DES_BYTE answers `illFormedDes` where it
would store at index 64 of `scratch`, and every other command in every state answers a next state. -/
def Obligations.OnlyAStorePastScratchStopsACommand : Prop :=
  (∀ (d : Byte) (s : State), s.des.desState = .readingBytes → 1 ≤ s.des.desLen.val → s.des.desCnt = 64 →
    exec (.desByte d) s = .fault .illFormedDes) ∧
  (∀ (i : Instr) (s : State),
    ¬ ((∃ d, i = .desByte d) ∧ s.des.desState = .readingBytes ∧ 1 ≤ s.des.desLen.val ∧ s.des.desCnt = 64) →
    ∃ t, exec i s = .next t)

/-- R98: the byte after a zero LEN byte, by `ZERO_LEN_MODE`. Under `Fault` the model fault is recorded and nothing
follows; under `ConsumeOne` the byte is a phantom payload byte, and the four checksum bytes that follow match only
as `0x00000000`. What a faulted state holds besides its fault is the model's choice (log 4). That an
`InvalidChecksum` of length 0 then carries the phantom byte at index 0 is the model's reading of R98 and vector Z4
against R102's remark on zero bytes (log 15). -/
def Obligations.ZeroLengthPayloadFollowsMode : Prop :=
  (∀ (s : State) (d : Byte), s.des.desState = .readingBytes → s.des.desLen = 0 →
    match Config.zeroLenMode with
    | .fault => ∃ t, exec (.desByte d) s = .next t ∧ t.fault = some .zeroLengthPayload ∧
        step t = .fault (.faulted .zeroLengthPayload)
    | .consumeOne => exec (.desByte d) s =
        .next { s with des := { s.des with desState := .readingChecksum, desCnt := 1, crcCnt := 0,
                                           scratch := s.des.scratch.set 0 d },
                       rsp := some .rspNone }) ∧
  (∀ (u : Des) (d : Byte), u.desState = .readingBytes → u.desLen = 0 →
    u.consume .fault d = .raises .zeroLengthPayload) ∧
  (∀ (u : Des) (d : Byte) (c : Vector Byte 4), u.desState = .readingBytes → u.desLen = 0 →
    ∃ v, Des.feed .consumeOne (d :: c.toList) u =
        some (v, [.rspNone, .rspNone, .rspNone, .rspNone,
          if be32 c = 0x00000000#32 then .rspDesPayloadError .payloadShort 0
          else .rspDesInvalidChecksum (be32 c) 0 (u.scratch.set 0 d)]) ∧
      v = { u with desState := .readingMagic, magicIdx := 0, desCnt := 1, crcCnt := 0, crcRx := be32 c,
                   scratch := u.scratch.set 0 d })

/-- R99: in `ReadingChecksum` each byte is shifted into `crc_rx`; the first three are counted, the fourth clears the
count; after four bytes `crc_rx` is their big-endian value, whatever it held before (derived in R99). -/
def Obligations.ChecksumBytesShiftInBigEndian : Prop :=
  (∀ (s : State) (d : Byte) (n : Fin 4), s.des.desState = .readingChecksum → n.val = s.des.crcCnt.val + 1 →
    exec (.desByte d) s =
      .next { s with des := { s.des with crcRx := (s.des.crcRx <<< 8) ||| d.setWidth 32, crcCnt := n },
                     rsp := some .rspNone }) ∧
  (∀ (s : State) (d : Byte), s.des.desState = .readingChecksum → s.des.crcCnt = 3 →
    ∃ t, exec (.desByte d) s = .next t ∧ t.des.crcRx = (s.des.crcRx <<< 8) ||| d.setWidth 32 ∧
      t.des.crcCnt = 0) ∧
  (∀ (mode : ZeroLenMode) (u : Des) (c : Vector Byte 4), u.desState = .readingChecksum → u.crcCnt = 0 →
    ∃ v rs, Des.feed mode c.toList u = some (v, rs) ∧ v.crcRx = be32 c)

/-- R100, R101: the fourth checksum byte completes the attempt; the CRC is compared first, the payload is decoded only
if it matches, and DES returns to `ReadingMagic` with match index 0 in every case, keeping its other registers. -/
def Obligations.FourthChecksumByteGivesVerdict : Prop :=
  ∀ (s : State) (d : Byte) (c : Word), s.des.desState = .readingChecksum → s.des.crcCnt = 3 →
    c = (s.des.crcRx <<< 8) ||| d.setWidth 32 →
    exec (.desByte d) s =
      .next { s with
        des := { s.des with desState := .readingMagic, magicIdx := 0, crcRx := c, crcCnt := 0 },
        rsp := some (
          if crc32 (s.des.scratch.toList.take s.des.desLen) = c then
            match unpack s.des.scratch s.des.desLen with
            | .ok r => .rspDesOk r
            | .error e => .rspDesPayloadError e s.des.desLen
          else .rspDesInvalidChecksum c s.des.desLen s.des.scratch) }

/-- R103: the payload unpacker. -/
def Obligations.UnpackNeedsExactlySixtyFourBytes : Prop :=
  ∀ (S : Vector Byte 64) (n : Fin 65),
    PayloadError.payloadShort.code = 0x1#4 ∧
    (n ≠ 64 → unpack S n = .error .payloadShort) ∧
    (n = 64 → ∃ r, unpack S n = .ok r ∧ (∀ k : Fin 16, r.deviceId[k.val] = S[k.val]) ∧
      r.loopCnt = S[16] ++ S[17] ++ S[18] ++ S[19] ∧
      r.tipCnt = S[20] ++ S[21] ++ S[22] ++ S[23] ∧
      r.vbat = S[24] ++ S[25] ++ S[26] ++ S[27] ∧
      r.temperature = S[28] ++ S[29] ++ S[30] ++ S[31] ∧
      r.relativeHumidity = S[32] ++ S[33] ++ S[34] ++ S[35] ∧
      r.usbBytesRead = S[36] ++ S[37] ++ S[38] ++ S[39] ∧
      r.usbBytesWritten = S[40] ++ S[41] ++ S[42] ++ S[43] ∧
      r.usbErrorCnt = S[44] ++ S[45] ++ S[46] ++ S[47] ∧
      r.loraRxBytes = S[48] ++ S[49] ++ S[50] ++ S[51] ∧
      r.loraTxBytes = S[52] ++ S[53] ++ S[54] ++ S[55] ∧
      r.loraErrorCnt = S[56] ++ S[57] ++ S[58] ++ S[59] ∧
      r.hardwareErrOtherCnt = S[60] ++ S[61] ++ S[62] ++ S[63])

/-- R108: DES_RESET. -/
def Obligations.DesResetStartsNewDecoder : Prop :=
  ∀ (data : Byte) (s : State),
    decodeWord (0x6#4 ++ data) = .desReset data ∧
    ∃ zeroed : Vector Byte 64, (∀ i : Fin 64, zeroed[i.val] = 0x00#8) ∧
      exec (.desReset data) s =
        .next { s with des := { desState := .readingMagic, magicIdx := 0, desLen := 0, desCnt := 0,
                                scratch := zeroed, crcRx := 0x00000000#32, crcCnt := 0 },
                       rsp := some .rspNone }

/-! ## Control -/

/-- R109: NOP. -/
def Obligations.NopChangesNothing : Prop :=
  ∀ (data : Byte) (s : State),
    decodeWord (0x0#4 ++ data) = .nop data ∧ exec (.nop data) s = .next { s with rsp := some .rspNone }

/-- R110, R118: each of the nine reserved opcodes decodes to a command of its own, which answers `RSP_ILLEGAL` and
changes no state. -/
def Obligations.ReservedOpcodesAnswerIllegal : Prop :=
  (∀ (i : Instr) (data : Byte) (s : State),
    i ∈ [Instr.reserved7 data, .reserved8 data, .reserved9 data, .reservedA data, .reservedB data,
      .reservedC data, .reservedD data, .reservedE data, .reservedF data] →
    7 ≤ (opcode i).toNat ∧ decodeWord (opcode i ++ data) = i ∧
      exec i s = .next { s with rsp := some .rspIllegal }) ∧
  (∀ (op : BitVec 4) (data : Byte) (s : State), 7 ≤ op.toNat →
    opcode (decodeWord (op ++ data)) = op ∧
      exec (decodeWord (op ++ data)) s = .next { s with rsp := some .rspIllegal })

/-- R111: under an opcode that ignores `data`, every value of it gives the same next state and response as `0x00`,
and the notation writes 0 there. -/
def Obligations.IgnoredDataHasNoEffect : Prop :=
  (∀ (s : State) (op : BitVec 4) (data : Byte) (r : Record) (rest : List HostInput),
    op ≠ 0x2#4 → op ≠ 0x3#4 → op ≠ 0x5#4 →
    step { s with pending := .command (op ++ data) r :: rest } =
      step { s with pending := .command (op ++ 0x00#8) r :: rest }) ∧
  (∀ c ∈ [AsmCommand.nop, .crcInit, .serPull, .desReset],
    commandWord c = opcode (decodeWord (commandWord c)) ++ 0x00#8)

/-! ## Decoding and the step -/

/-- R21, R69, R43 (the list of inputs is the model's form, log 1): a step whose next input is a command runs the decoded
command, with the record the host gives beside it, and takes that input and no other. -/
def Obligations.StepRunsTheDecodedCommand : Prop :=
  ∀ (s : State) (cmd : CommandWord) (r : Record) (rest : List HostInput),
    s.fault = none → s.pending = .command cmd r :: rest →
    step s = exec (decodeWord cmd) { s with recIn := r, pending := rest }

/-- R107, R131 (the idle step is the model's choice, log 2): when the host gives nothing, every register keeps its
value and there is no response. -/
def Obligations.IdleStepHoldsEveryRegister : Prop :=
  ∀ s : State, s.fault = none → s.pending = [] → step s = .next { s with rsp := none }

/-- R70: command words the spec writes out, and one for each other opcode. -/
def Obligations.WrittenOutWordsDecode : Prop :=
  decodeWord 0x231#12 = .crcByte 0x31 ∧ decodeWord 0x348#12 = .serEncode 72 ∧
  decodeWord 0x57D#12 = .desByte 0x7D ∧ decodeWord 0x000#12 = .nop 0 ∧ decodeWord 0x100#12 = .crcInit 0 ∧
  decodeWord 0x400#12 = .serPull 0 ∧ decodeWord 0x600#12 = .desReset 0 ∧
  decodeWord 0x7FF#12 = .reserved7 0xFF ∧ decodeWord 0xFFF#12 = .reservedF 0xFF

/-- R69, R70, R72: decoding and encoding agree in both directions on all 4096 words, and in the byte form too (the
byte form is the model's choice, log 8). -/
def Obligations.DecodeAndEncodeAgree : Prop :=
  (∀ i : Instr, decodeWord (encode i) = i) ∧ (∀ w : CommandWord, encode (decodeWord w) = w) ∧
  (∀ (i : Instr) (rest : List Byte), decode (encodeBytes i ++ rest) = .ok (i, rest)) ∧
  (∀ (bytes rest : List Byte) (i : Instr), decode bytes = .ok (i, rest) → bytes = encodeBytes i ++ rest)

/-- R73, R74: what the notation assembles to. Every written command that passes the operand check assembles to the
one word of the command it names, `.word` to any word; each of the five pseudo-instructions assembles to the words of
its expansion, written out; a program is its lines in order, and is refused if one of them is. A byte list has at
least one byte (the model's reading of `b0, ..., bn`, log 11). -/
def Obligations.AssembledWordsDecodeToTheirCommands : Prop :=
  (∀ d : Byte,
    decodeWord (commandWord (.crcByte d.toNat)) = .crcByte d ∧
    decodeWord (commandWord (.serEncode d.toNat)) = .serEncode d ∧
    decodeWord (commandWord (.desByte d.toNat)) = .desByte d) ∧
  decodeWord (commandWord .nop) = .nop 0 ∧ decodeWord (commandWord .crcInit) = .crcInit 0 ∧
  decodeWord (commandWord .serPull) = .serPull 0 ∧ decodeWord (commandWord .desReset) = .desReset 0 ∧
  (∀ w : CommandWord, commandWord (.word w.toNat) = w) ∧
  (∀ c : AsmCommand, c.wf = true → (∀ w, c ≠ .word w) → (decodeWord (commandWord c)).canonical = true) ∧
  (∀ c : AsmCommand, c.wf = true → assemble [.command c] = some [commandWord c]) ∧
  (∀ bs : List Nat, bs ≠ [] → (∀ b ∈ bs, b ≤ 255) →
    assemble [.crcBytes bs] = some (bs.map fun b => encode (.crcByte (BitVec.ofNat 8 b))) ∧
    assemble [.crcCompute bs] =
      some (encode (.crcInit 0) :: bs.map fun b => encode (.crcByte (BitVec.ofNat 8 b))) ∧
    assemble [.desFeed bs] = some (bs.map fun b => encode (.desByte (BitVec.ofNat 8 b)))) ∧
  assemble [.serDrain] = some (List.replicate 72 (encode (.serPull 0))) ∧
  (∀ cap : Nat, cap ≤ 255 → assemble [.serSend cap] =
    some (encode (.serEncode (BitVec.ofNat 8 cap)) :: List.replicate 72 (encode (.serPull 0)))) ∧
  (∀ (ls ms : List AsmLine) (ws vs : List CommandWord),
    assemble ls = some ws → assemble ms = some vs → assemble (ls ++ ms) = some (ws ++ vs)) ∧
  (∀ c : AsmCommand, c.wf = false → assemble [.command c] = none) ∧
  (∀ ls : List AsmLine, (∃ l ∈ ls, l.wf = false) → assemble ls = none) ∧
  (∀ bs : List Nat, AsmLine.wf (.crcCompute bs) = true →
    assemble [.crcCompute bs] = assemble [.command .crcInit, .crcBytes bs]) ∧
  (∀ cap : Nat, AsmLine.wf (.serSend cap) = true →
    assemble [.serSend cap] = assemble [.command (.serEncode cap), .serDrain])

/-! ## Invariants and whole-machine rules -/

/-- R46, R31, R32: the state after reset is well-formed and meets the invariant of `ser_frame`; it holds no frame:
`ser_len` is 0 and all 72 bytes are `0x00`. -/
def Obligations.ResetIsWellFormed : Prop :=
  State.reset.WellFormed ∧ State.reset.ser.HoldsFrame ∧ State.reset.ser.serLen = 0 ∧
  (∀ i : Fin 72, State.reset.ser.serFrame[i.val] = 0x00#8)

/-- R46 (derived there; `crc_cnt` outside `ReadingChecksum` by R40): every step from a well-formed state gives a
well-formed state. -/
def Obligations.StepKeepsWellFormed : Prop :=
  ∀ s t : State, s.WellFormed → step s = .next t → t.WellFormed

/-- R31, R32, R86: every step keeps that `ser_frame` is a whole frame of some record or still as after reset. -/
def Obligations.StepKeepsFrameInSerializer : Prop :=
  ∀ s t : State, s.ser.HoldsFrame → step s = .next t → t.ser.HoldsFrame

/-- R112, R119: no command and no reset event stops a machine in a well-formed state whose `fault` is none, and no
command is ever refused. Two next states among these are the model's choice: that of a step with no input (log 2),
and that of the byte after a zero LEN byte under `ZERO_LEN_MODE = Fault`, which records the fault and after which R98
lets the model stop (log 4). -/
def Obligations.WellFormedMachineAlwaysSteps : Prop :=
  (∀ s : State, s.WellFormed → s.fault = none → ∃ t, step s = .next t) ∧
  (∀ (s : State) (i : Instr), s.WellFormed → ∃ t, exec i s = .next t) ∧
  (∀ (s : State) (r : Refusal), step s ≠ .refused r)

/-- R2, R61: a command writes only the sub-unit it addresses; none touches the input ports; only a DES command can
record a fault; every step that records none gives exactly one response. -/
def Obligations.CommandsWriteOnlyTheirSubUnit : Prop :=
  ∀ (i : Instr) (s t : State), exec i s = .next t →
    (subUnit i ≠ some .crcu → t.crcu = s.crcu) ∧
    (subUnit i ≠ some .ser → t.ser = s.ser) ∧
    (subUnit i ≠ some .des → t.des = s.des ∧ t.fault = s.fault) ∧
    t.recIn = s.recIn ∧ t.pending = s.pending ∧
    (t.fault = none → ∃ r, t.rsp = some r)

/-- R61 (derived there): two consecutive commands to different sub-units give the same final registers and the same
two responses in either order. -/
def Obligations.CommandsToDifferentSubUnitsCommute : Prop :=
  ∀ (s t : State) (i j : Instr) (ri rj : Record) (rest : List HostInput) (x y : Option Response),
    subUnit i ≠ none → subUnit j ≠ none → subUnit i ≠ subUnit j →
    run 2 { s with pending := .command (encode i) ri :: .command (encode j) rj :: rest } =
      .next (t, [x, y]) →
    t.fault = none →
    ∃ u, run 2 { s with pending := .command (encode j) rj :: .command (encode i) ri :: rest } =
        .next (u, [y, x]) ∧
      u.crcu = t.crcu ∧ u.ser = t.ser ∧ u.des = t.des ∧ u.fault = t.fault ∧ u.pending = t.pending

/-- R142, R43: only SER_ENCODE reads `rec_in`; for every other command another record there changes nothing but
itself. -/
def Obligations.OnlySerEncodeReadsTheRecord : Prop :=
  ∀ (i : Instr) (s : State) (r : Record), (∀ cap, i ≠ .serEncode cap) →
    (∀ t, exec i s = .next t → exec i { s with recIn := r } = .next { t with recIn := r }) ∧
    (∀ f, exec i s = .fault f → exec i { s with recIn := r } = .fault f)

/-- R89 (derived there): the bytes of a frame depend on the record alone. -/
def Obligations.FrameDependsOnRecordAlone : Prop :=
  ∀ (s t : State) (a b : Byte), s.recIn = t.recIn → 72 ≤ a.toNat → 72 ≤ b.toNat →
    ∃ s' t', exec (.serEncode a) s = .next s' ∧ exec (.serEncode b) t = .next t' ∧ s'.ser = t'.ser ∧
      s'.rsp = t'.rsp

/-- R61, R89: DES is isolated. Machines that agree on DES, on the fault and on the command words the host gives stay
in agreement through any number of steps and yield the same result items, whatever CRCU, SER and the records hold. -/
def Obligations.DeserializerIsIsolated : Prop :=
  ∀ (k : Nat) (s t s' : State) (rs : List (Option Response)), s.AgreeOnDes t →
    run k s = .next (s', rs) →
    ∃ t' rs', run k t = .next (t', rs') ∧ s'.AgreeOnDes t' ∧
      rs.filterMap (fun x => x.bind Response.resultItem) = rs'.filterMap (fun x => x.bind Response.resultItem)

/-- R105, R106: a DES_BYTE that yields a result item leaves DES in `ReadingMagic` with match index 0, an item is
yielded only by the LEN byte or the fourth checksum byte, and no other command yields one. -/
def Obligations.ResultItemsResynchronize : Prop :=
  ∀ (i : Instr) (s t : State) (r : Response) (item : ResultItem),
    exec i s = .next t → t.rsp = some r → r.resultItem = some item →
    (∃ d, i = .desByte d) ∧ t.des.desState = .readingMagic ∧ t.des.magicIdx = 0 ∧
    (item = .invalidLength ∧ s.des.desState = .readingLength ∨
      item ≠ .invalidLength ∧ s.des.desState = .readingChecksum ∧ s.des.crcCnt = 3)

/-- R113 to R118: which command reports which error, and when. -/
def Obligations.EveryReportedErrorHasItsCause : Prop :=
  ∀ (i : Instr) (s t : State) (r : Response) (e : ReportedError),
    exec i s = .next t → t.rsp = some r → r.error = some e →
    match e with
    | .invalidLength => ∃ d, i = .desByte d ∧ s.des.desState = .readingLength ∧ 65 ≤ d.toNat
    | .invalidChecksum => ∃ d, i = .desByte d ∧ s.des.desState = .readingChecksum ∧ s.des.crcCnt = 3 ∧
        crc32 s.des.payloadBytes ≠ t.des.crcRx ∧
        r = .rspDesInvalidChecksum t.des.crcRx s.des.desLen s.des.scratch
    | .payloadError => ∃ d, i = .desByte d ∧ s.des.desState = .readingChecksum ∧ s.des.crcCnt = 3 ∧
        crc32 s.des.payloadBytes = t.des.crcRx ∧ s.des.desLen.val < 64 ∧
        r = .rspDesPayloadError .payloadShort s.des.desLen
    | .bufferTooSmall => ∃ cap, i = .serEncode cap ∧ cap.toNat < 72
    | .illegalCommand => 7 ≤ (opcode i).toNat

/-- R102, R46: an `InvalidChecksum` answered from a well-formed state with `des_len` at least 1 carries the payload
bytes received, followed by zeros. -/
def Obligations.InvalidChecksumCarriesPaddedPayload : Prop :=
  ∀ (s t : State) (d : Byte) (c : Word) (n : Fin 65) (p : Vector Byte 64),
    s.WellFormed → exec (.desByte d) s = .next t → t.rsp = some (.rspDesInvalidChecksum c n p) →
    1 ≤ n.val →
    n = s.des.desLen ∧ c = t.des.crcRx ∧ p.toList.take n = s.des.payloadBytes ∧
    (∀ i : Fin 64, n.val ≤ i.val → p[i.val] = 0x00#8)

/-- R75, R76: the code of each response kind and the fields it carries; a field it does not carry is zero. -/
def Obligations.ResponseFieldsOfEachKind : Prop :=
  (∀ r : Response, r.kind ∈ [0x0#4, 0x1#4, 0x2#4, 0x3#4, 0x4#4, 0x5#4, 0x6#4, 0x7#4, 0x8#4, 0x9#4, 0xE#4]) ∧
  (∀ r : Response, r.data ≠ 0 → r.kind ∈ [0x1#4, 0x2#4, 0x4#4, 0x8#4]) ∧
  (∀ r : Response, r.len ≠ 0 → r.kind ∈ [0x8#4, 0x9#4]) ∧
  (∀ r : Response, r.detail = 0x1#4 ∧ r.kind = 0x9#4 ∨ r.detail = 0x0#4 ∧ r.kind ≠ 0x9#4) ∧
  (∀ r : Response, r.record ≠ Record.zero → r.kind = 0x6#4) ∧
  (∀ r : Response, r.payload ≠ Vector.replicate 64 0#8 → r.kind = 0x8#4) ∧
  (∀ (c : Word) (n : Fin 65) (p : Vector Byte 64),
    (Response.rspDesInvalidChecksum c n p).kind = 0x8#4 ∧ (Response.rspDesInvalidChecksum c n p).data = c ∧
    (Response.rspDesInvalidChecksum c n p).len.toNat = n.val ∧
    (Response.rspDesInvalidChecksum c n p).payload = p) ∧
  (∀ (e : PayloadError) (n : Fin 65), (Response.rspDesPayloadError e n).kind = 0x9#4 ∧
    (Response.rspDesPayloadError e n).detail = 0x1#4 ∧ (Response.rspDesPayloadError e n).len.toNat = n.val) ∧
  (∀ r : Record, (Response.rspDesOk r).kind = 0x6#4 ∧ (Response.rspDesOk r).record = r) ∧
  (∀ b : Byte, (Response.rspSerByte b).kind = 0x4#4 ∧ (Response.rspSerByte b).data = b.setWidth 32) ∧
  (∀ v : Word, (Response.rspCrc v).kind = 0x1#4 ∧ (Response.rspCrc v).data = v) ∧
  Response.rspNone.kind = 0x0#4 ∧ (Response.rspSerOk 72#32).kind = 0x2#4 ∧
  (Response.rspSerOk 72#32).data = 72#32 ∧ Response.rspSerTooSmall.kind = 0x3#4 ∧
  Response.rspSerEmpty.kind = 0x5#4 ∧ Response.rspDesInvalidLength.kind = 0x7#4 ∧
  Response.rspIllegal.kind = 0xE#4

/-- R59: CRC_INIT, DES_RESET and NOP are idempotent, and so is SER_ENCODE with the same record and capacity. -/
def Obligations.IdempotentCommands : Prop :=
  ∀ (i : Instr) (s t : State) (data : Byte),
    i ∈ [Instr.nop data, .crcInit data, .desReset data, .serEncode data] →
    exec i s = .next t → exec i t = .next t

/-! ## Streams -/

/-- R93 (derived there): DES hunting from match index `i` locks at the first byte that completes the rest of MAGIC as
a subsequence of the bytes received, and keeps hunting, answering nothing, until then. -/
def Obligations.HuntLocksOnMagicSubsequence : Prop :=
  ∀ (mode : ZeroLenMode) (u : Des) (bs : List Byte), u.desState = .readingMagic →
    (¬ (Config.magic.toList.drop u.magicIdx).Sublist bs →
      ∃ j : Fin 3, u.magicIdx ≤ j ∧
        ((Config.magic.toList.drop u.magicIdx).take (j.val - u.magicIdx.val)).Sublist bs ∧
        ¬ ((Config.magic.toList.drop u.magicIdx).take (j.val - u.magicIdx.val + 1)).Sublist bs ∧
        Des.feed mode bs u = some ({ u with magicIdx := j }, List.replicate bs.length .rspNone)) ∧
    (∀ d : Byte, ¬ (Config.magic.toList.drop u.magicIdx).Sublist bs →
      (Config.magic.toList.drop u.magicIdx).Sublist (bs ++ [d]) →
      Des.feed mode (bs ++ [d]) u =
        some ({ u with desState := .readingLength, magicIdx := 0 },
          List.replicate (bs.length + 1) .rspNone))

/-- R94 (derived there): whatever the match index, DES in `ReadingMagic` locks exactly on the third byte of a frame. -/
def Obligations.EveryMatchIndexLocksOnTheFrame : Prop :=
  ∀ (mode : ZeroLenMode) (u : Des) (r : Record), u.desState = .readingMagic →
    (∃ v, Des.feed mode ((frame r).toList.take 2) u = some (v, [.rspNone, .rspNone]) ∧
      v.desState = .readingMagic) ∧
    Des.feed mode ((frame r).toList.take 3) u =
      some ({ u with desState := .readingLength, magicIdx := 0 }, [.rspNone, .rspNone, .rspNone])

/-- R66 to R68, R96 to R103: a whole frame attempt from the LEN byte on. For every payload of 1 to 64 bytes and every
four checksum bytes, the machine answers nothing until the last byte, and then exactly one result: `InvalidChecksum`
with the evidence if the CRC differs, else `PayloadError` if the payload is short, else the record. -/
def Obligations.FrameAttemptYieldsOneResult : Prop :=
  ∀ (s : State) (inputs rest : List HostInput) (p : List Byte) (c : Vector Byte 4),
    1 ≤ p.length → p.length ≤ 64 → s.fault = none → s.des.desState = .readingLength →
    s.pending = inputs ++ rest →
    givesCommands inputs ((BitVec.ofNat 8 p.length :: (p ++ c.toList)).map .desByte) →
    ∃ (t : State) (rsp : Response) (n : Fin 65) (padded : Vector Byte 64),
      run (p.length + 5) s = .next (t, List.replicate (p.length + 4) (some .rspNone) ++ [some rsp]) ∧
      n.val = p.length ∧ padded.toList = p ++ List.replicate (64 - p.length) 0x00#8 ∧
      t.des = { desState := .readingMagic, magicIdx := 0, desLen := n, desCnt := n, scratch := padded,
                crcRx := be32 c, crcCnt := 0 } ∧
      t.crcu = s.crcu ∧ t.ser = s.ser ∧ t.fault = none ∧ t.pending = rest ∧
      (crc32 p ≠ be32 c → rsp = .rspDesInvalidChecksum (be32 c) n padded) ∧
      (crc32 p = be32 c → p.length < 64 → rsp = .rspDesPayloadError .payloadShort n) ∧
      (crc32 p = be32 c → p.length = 64 → ∃ r, rsp = .rspDesOk r ∧ (pack r).toList = p)

/-- R104 (derived there): the source's round trip. For every record, the 72 bytes of its frame, given to DES in
`ReadingMagic` with any match index, yield exactly one result item, that record, on the last byte. -/
def Obligations.FrameDecodesToItsRecord : Prop :=
  ∀ (s : State) (inputs rest : List HostInput) (r : Record),
    s.fault = none → s.des.desState = .readingMagic → s.pending = inputs ++ rest →
    givesCommands inputs ((frame r).toList.map .desByte) →
    ∃ t, run 72 s = .next (t, List.replicate 71 (some .rspNone) ++ [some (.rspDesOk r)]) ∧
      t.des.desState = .readingMagic ∧ t.des.magicIdx = 0 ∧ t.des.scratch = pack r ∧ t.fault = none ∧
      t.crcu = s.crcu ∧ t.ser = s.ser ∧ t.pending = rest

/-- R93, R94, R104 (derived; the source's leading garbage resilience): bytes that do not complete MAGIC as a
subsequence, given before a frame, change nothing of its decoding. -/
def Obligations.LeadingGarbageDoesNotLoseTheFrame : Prop :=
  ∀ (s : State) (inputs rest : List HostInput) (garbage : List Byte) (r : Record),
    s.fault = none → s.des.desState = .readingMagic →
    ¬ (Config.magic.toList.drop s.des.magicIdx).Sublist garbage →
    s.pending = inputs ++ rest →
    givesCommands inputs ((garbage ++ (frame r).toList).map .desByte) →
    ∃ t, run (garbage.length + 72) s =
        .next (t, List.replicate (garbage.length + 71) (some .rspNone) ++ [some (.rspDesOk r)]) ∧
      t.des.desState = .readingMagic ∧ t.des.magicIdx = 0 ∧ t.fault = none

/-- R81 (derived there), R102, R106: flipping any one of the 512 payload bits of a frame yields `InvalidChecksum`
carrying the provided checksum and the corrupted payload, and the next frame decodes. -/
def Obligations.FlippedPayloadBitIsDetected : Prop :=
  ∀ (s : State) (inputs rest : List HostInput) (r next : Record) (k : Fin 64) (b : Fin 8)
      (corrupted : Vector Byte 64),
    s.fault = none → s.des.desState = .readingMagic → s.pending = inputs ++ rest →
    corrupted = (pack r).set k.val ((pack r)[k.val] ^^^ (1#8 <<< b.val)) →
    givesCommands inputs
      (((frame r).toList.take 4 ++ corrupted.toList ++ (frame r).toList.drop 68 ++ (frame next).toList).map
        .desByte) →
    ∃ t, run 144 s =
        .next (t, List.replicate 71 (some .rspNone)
          ++ [some (.rspDesInvalidChecksum (crc32 (pack r).toList) 64 corrupted)]
          ++ List.replicate 71 (some .rspNone) ++ [some (.rspDesOk next)]) ∧
      t.des.desState = .readingMagic ∧ t.des.magicIdx = 0 ∧ t.fault = none

/-- R136, R87, R88, R104: the block end to end. A record is encoded, its frame is pulled byte by byte, and each byte
pulled is given to DES; the last one yields that record. -/
def Obligations.EncodedFramePulledAndFedBackDecodes : Prop :=
  ∀ (s : State) (inputs feeds rest : List HostInput) (cap : Byte) (r : Record) (pulls : List Byte),
    s.fault = none → s.des.desState = .readingMagic → 72 ≤ cap.toNat → pulls.length = 72 →
    s.pending = .command (encode (.serEncode cap)) r :: (inputs ++ (feeds ++ rest)) →
    givesCommands inputs (pulls.map .serPull) →
    ∃ (t : State) (bytes : List Byte),
      run 73 s = .next (t, some (.rspSerOk 72#32) :: bytes.map (fun b => some (.rspSerByte b))) ∧
      t.pending = feeds ++ rest ∧
      (givesCommands feeds (bytes.map .desByte) →
        ∃ u, run 72 t = .next (u, List.replicate 71 (some .rspNone) ++ [some (.rspDesOk r)]) ∧
          u.pending = rest)

/-! ## Result items -/

/-- R105, R75, R76, R113: the result items of a byte stream are the responses other than `RSP_NONE`, in order, one
response a byte; an item carries all that its response carries, and the other responses carry none. -/
def Obligations.ResultItemsAreTheOtherResponses : Prop :=
  (∀ (mode : ZeroLenMode) (bs : List Byte) (u v : Des) (rs : List Response),
    Des.feed mode bs u = some (v, rs) →
    rs.length = bs.length ∧
    (rs.filter (· ≠ .rspNone)).map Response.resultItem = (resultItems rs).map some) ∧
  (∀ r : Response,
    match r.resultItem with
    | some (.ok record) => r.kind = 0x6#4 ∧ r.record = record
    | some .invalidLength => r.kind = 0x7#4
    | some (.invalidChecksum provided payload len) =>
        r.kind = 0x8#4 ∧ provided = bytesBe32 r.data ∧ payload = r.payload ∧ len.val = r.len.toNat
    | some (.payloadError details len) =>
        r.kind = 0x9#4 ∧ details.code = r.detail ∧ len.val = r.len.toNat
    | none => r.kind ∉ [0x6#4, 0x7#4, 0x8#4, 0x9#4])
end

