-- ==== Sys2Proof/Laws/Assembler.lean ====
section
/-! SUPPORT. Everything `assemble` can answer, said once. -/

namespace Sys2Proof.Machine

/-- A program assembles just when all its lines pass the check of R73, and then to the words of its lines' expansions
in order. -/
theorem assemble_eq_some_iff (ls : List AsmLine) (ws : List CommandWord) :
    assemble ls = some ws ↔
      (∀ l ∈ ls, l.wf = true) ∧ ws = ls.flatMap fun l => (expandLine l).map commandWord := by
  rw [assemble, ← List.all_eq_true]
  split <;> simp_all [eq_comm (a := ws)]

end Sys2Proof.Machine
end

