-- ==== Sys2Proof/Laws/Bytes.lean ====
section
/-! SUPPORT. Splitting a 32-bit value into four bytes and assembling it are inverse. -/

namespace Sys2Proof.Machine

@[simp] theorem be32_bytesBe32 (v : Word) : be32 (bytesBe32 v) = v := by
  apply BitVec.eq_of_getLsbD_eq
  intro i hi
  simp only [be32, bytesBe32, Vector.getElem_mk, List.getElem_toArray, List.getElem_cons_zero,
    List.getElem_cons_succ, BitVec.getLsbD_append, BitVec.getLsbD_extractLsb']
  rcases Nat.lt_or_ge i 8 with h | h
  · simp [h]
  rcases Nat.lt_or_ge i 16 with h' | h'
  · have : i - 8 < 8 := by omega
    simp [Nat.not_lt.mpr h, this, Nat.add_sub_cancel' h]
  rcases Nat.lt_or_ge i 24 with h'' | h''
  · have : i - 8 - 8 < 8 := by omega
    have n : ¬ i - 8 < 8 := by omega
    have e : 16 + (i - 8 - 8) = i := by omega
    simp [Nat.not_lt.mpr h, n, this, e]
  · have n : ¬ i - 8 < 8 := by omega
    have n' : ¬ i - 8 - 8 < 8 := by omega
    have this : i - 8 - 8 - 8 < 8 := by omega
    have e : 24 + (i - 8 - 8 - 8) = i := by omega
    simp [Nat.not_lt.mpr h, n, n', this, e]

theorem getElem_bytesBe32 (v : Word) (k : Nat) (h : k < 4) :
    (bytesBe32 v)[k] = v.extractLsb' (24 - 8 * k) 8 := by
  match k, h with
  | 0, _ | 1, _ | 2, _ | 3, _ => rfl

@[simp] theorem bytesBe32_be32 (b : Vector Byte 4) : bytesBe32 (be32 b) = b := by
  apply Vector.ext
  intro k hk
  rw [getElem_bytesBe32]
  apply BitVec.eq_of_getLsbD_eq
  intro i hi
  simp only [be32, BitVec.getLsbD_extractLsb', BitVec.getLsbD_append, hi, decide_true, Bool.true_and]
  match k, hk with
  | 0, _ =>
    have a : ¬ 24 - 8 * 0 + i < 8 := by omega
    have b : ¬ 24 - 8 * 0 + i - 8 < 8 := by omega
    have c : ¬ 24 - 8 * 0 + i - 8 - 8 < 8 := by omega
    have e : 24 - 8 * 0 + i - 8 - 8 - 8 = i := by omega
    simp only [a, b, c, e, if_false]
  | 1, _ =>
    have a : ¬ 24 - 8 * 1 + i < 8 := by omega
    have b : ¬ 24 - 8 * 1 + i - 8 < 8 := by omega
    have c : 24 - 8 * 1 + i - 8 - 8 < 8 := by omega
    have e : 24 - 8 * 1 + i - 8 - 8 = i := by omega
    simp only [a, b, e, hi, if_false, if_true]
  | 2, _ =>
    have a : ¬ 24 - 8 * 2 + i < 8 := by omega
    have e : 24 - 8 * 2 + i - 8 = i := by omega
    simp only [a, e, hi, if_false, if_true]
  | 3, _ =>
    have e : 24 - 8 * 3 + i = i := by omega
    simp only [e, hi, if_true]

end Sys2Proof.Machine
end

