-- ==== Sys2Proof/Laws/Codec.lean ====
section
/-! SUPPORT. The packed payload and the frame as lists of bytes, and what each function of the codec does. -/

namespace Sys2Proof.Machine

theorem pack_toList (r : Record) :
    (pack r).toList = r.deviceId.toList
      ++ (bytesBe32 r.loopCnt).toList ++ (bytesBe32 r.tipCnt).toList ++ (bytesBe32 r.vbat).toList
      ++ (bytesBe32 r.temperature).toList ++ (bytesBe32 r.relativeHumidity).toList
      ++ (bytesBe32 r.usbBytesRead).toList ++ (bytesBe32 r.usbBytesWritten).toList
      ++ (bytesBe32 r.usbErrorCnt).toList ++ (bytesBe32 r.loraRxBytes).toList
      ++ (bytesBe32 r.loraTxBytes).toList ++ (bytesBe32 r.loraErrorCnt).toList
      ++ (bytesBe32 r.hardwareErrOtherCnt).toList := by
  simp only [pack, Vector.toList_append]

/-- One byte of a payload, read from the list of its bytes. -/
theorem getElem_pack (r : Record) (k : Nat) (h : k < 64) : (pack r)[k] = (pack r).toList[k]'(by simpa using h) :=
  (Vector.getElem_toList _).symm

/-- Four bytes of a buffer, as the list of its bytes read from their offset. -/
theorem be32At_eq (S : Vector Byte 64) (off : Nat) (h : off + 4 ≤ 64) :
    be32At S off h = S[off] ++ S[off + 1] ++ S[off + 2] ++ S[off + 3] := rfl

theorem unpack_short (S : Vector Byte 64) (n : Fin 65) (h : n.val ≠ 64) : unpack S n = .error .payloadShort :=
  if_pos h

theorem unpack_full (S : Vector Byte 64) (n : Fin 65) (h : n.val = 64) : unpack S n = .ok (unpackRecord S) :=
  if_neg fun hn => hn h

end Sys2Proof.Machine
end

