-- ==== Sys2Proof/Laws/Crc.lean ====
section
/-! SUPPORT. Laws of the CRC function: one pass of its loop is linear and loses nothing. -/

namespace Sys2Proof.Machine

@[simp] theorem crcUpdate_nil (acc : Word) : crcUpdate acc [] = acc := rfl

@[simp] theorem crcUpdate_cons (acc : Word) (d : Byte) (bs : List Byte) :
    crcUpdate acc (d :: bs) = crcUpdate (crcStep acc d) bs := rfl

theorem crcUpdate_append (acc : Word) (as bs : List Byte) :
    crcUpdate acc (as ++ bs) = crcUpdate (crcUpdate acc as) bs := List.foldl_append ..

@[simp] theorem Crcu.crcOut_mk (a : Word) : (Crcu.mk a).crcOut = a ^^^ 0xFFFFFFFF#32 := rfl

/-- The bit of `crcBit a` at `i` is the next higher bit of `a`, flipped where the polynomial has a 1 if the bit
shifted out was 1. -/
theorem getLsbD_crcBit (a : Word) (i : Nat) :
    (crcBit a).getLsbD i =
      (a.getLsbD (1 + i) ^^ (a.getLsbD 0 && Config.crcPolynomialReflected.getLsbD i)) := by
  unfold crcBit
  split <;> simp_all

theorem crcBit_xor (a b : Word) : crcBit (a ^^^ b) = crcBit a ^^^ crcBit b := by
  apply BitVec.eq_of_getLsbD_eq
  intro i _
  simp only [getLsbD_crcBit, BitVec.getLsbD_xor]
  cases a.getLsbD 0 <;> cases b.getLsbD 0 <;> cases a.getLsbD (1 + i) <;> cases b.getLsbD (1 + i) <;>
    cases Config.crcPolynomialReflected.getLsbD i <;> rfl

/-- Bit 31 of the result tells which bit was shifted out, so nothing is lost. -/
theorem crcBit_injective : Function.Injective crcBit := by
  intro a b h
  have bit (i : Nat) := congrArg (·.getLsbD i) h
  simp only [getLsbD_crcBit] at bit
  have out : a.getLsbD 0 = b.getLsbD 0 := by
    simpa [Config.crcPolynomialReflected, BitVec.getLsbD_of_ge] using bit 31
  apply BitVec.eq_of_getLsbD_eq
  intro i _
  match i with
  | 0 => exact out
  | j + 1 =>
    have e := bit j
    rw [out] at e
    simpa only [Bool.xor_left_inj, Nat.add_comm 1 j] using e

end Sys2Proof.Machine
end

