-- ==== Sys2Proof/Laws/State.lean ====
section
/-! SUPPORT. What each operation of Machine/Ops.lean does to each field of the state. -/

namespace Sys2Proof.Machine

@[simp] theorem State.respond_crcu (s : State) (r : Response) : (s.respond r).crcu = s.crcu := rfl
@[simp] theorem State.respond_ser (s : State) (r : Response) : (s.respond r).ser = s.ser := rfl
@[simp] theorem State.respond_des (s : State) (r : Response) : (s.respond r).des = s.des := rfl
@[simp] theorem State.respond_fault (s : State) (r : Response) : (s.respond r).fault = s.fault := rfl
@[simp] theorem State.respond_recIn (s : State) (r : Response) : (s.respond r).recIn = s.recIn := rfl
@[simp] theorem State.respond_pending (s : State) (r : Response) : (s.respond r).pending = s.pending := rfl
@[simp] theorem State.respond_rsp (s : State) (r : Response) : (s.respond r).rsp = some r := rfl

@[simp] theorem State.noResponse_crcu (s : State) : (s.noResponse).crcu = s.crcu := rfl
@[simp] theorem State.noResponse_ser (s : State) : (s.noResponse).ser = s.ser := rfl
@[simp] theorem State.noResponse_des (s : State) : (s.noResponse).des = s.des := rfl
@[simp] theorem State.noResponse_fault (s : State) : (s.noResponse).fault = s.fault := rfl
@[simp] theorem State.noResponse_recIn (s : State) : (s.noResponse).recIn = s.recIn := rfl
@[simp] theorem State.noResponse_pending (s : State) : (s.noResponse).pending = s.pending := rfl
@[simp] theorem State.noResponse_rsp (s : State) : (s.noResponse).rsp = none := rfl

@[simp] theorem State.raise_crcu (s : State) (reason : FaultReason) : (s.raise reason).crcu = s.crcu := rfl
@[simp] theorem State.raise_ser (s : State) (reason : FaultReason) : (s.raise reason).ser = s.ser := rfl
@[simp] theorem State.raise_des (s : State) (reason : FaultReason) : (s.raise reason).des = s.des := rfl
@[simp] theorem State.raise_fault (s : State) (reason : FaultReason) : (s.raise reason).fault = some reason := rfl
@[simp] theorem State.raise_recIn (s : State) (reason : FaultReason) : (s.raise reason).recIn = s.recIn := rfl
@[simp] theorem State.raise_pending (s : State) (reason : FaultReason) : (s.raise reason).pending = s.pending := rfl
@[simp] theorem State.raise_rsp (s : State) (reason : FaultReason) : (s.raise reason).rsp = none := rfl

@[simp] theorem State.withCrcu_crcu (s : State) (u : Crcu) : (s.withCrcu u).crcu = u := rfl
@[simp] theorem State.withCrcu_ser (s : State) (u : Crcu) : (s.withCrcu u).ser = s.ser := rfl
@[simp] theorem State.withCrcu_des (s : State) (u : Crcu) : (s.withCrcu u).des = s.des := rfl
@[simp] theorem State.withCrcu_fault (s : State) (u : Crcu) : (s.withCrcu u).fault = s.fault := rfl
@[simp] theorem State.withCrcu_recIn (s : State) (u : Crcu) : (s.withCrcu u).recIn = s.recIn := rfl
@[simp] theorem State.withCrcu_pending (s : State) (u : Crcu) : (s.withCrcu u).pending = s.pending := rfl
@[simp] theorem State.withCrcu_rsp (s : State) (u : Crcu) : (s.withCrcu u).rsp = s.rsp := rfl

@[simp] theorem State.withSer_crcu (s : State) (u : Ser) : (s.withSer u).crcu = s.crcu := rfl
@[simp] theorem State.withSer_ser (s : State) (u : Ser) : (s.withSer u).ser = u := rfl
@[simp] theorem State.withSer_des (s : State) (u : Ser) : (s.withSer u).des = s.des := rfl
@[simp] theorem State.withSer_fault (s : State) (u : Ser) : (s.withSer u).fault = s.fault := rfl
@[simp] theorem State.withSer_recIn (s : State) (u : Ser) : (s.withSer u).recIn = s.recIn := rfl
@[simp] theorem State.withSer_pending (s : State) (u : Ser) : (s.withSer u).pending = s.pending := rfl
@[simp] theorem State.withSer_rsp (s : State) (u : Ser) : (s.withSer u).rsp = s.rsp := rfl

@[simp] theorem State.withDes_crcu (s : State) (u : Des) : (s.withDes u).crcu = s.crcu := rfl
@[simp] theorem State.withDes_ser (s : State) (u : Des) : (s.withDes u).ser = s.ser := rfl
@[simp] theorem State.withDes_des (s : State) (u : Des) : (s.withDes u).des = u := rfl
@[simp] theorem State.withDes_fault (s : State) (u : Des) : (s.withDes u).fault = s.fault := rfl
@[simp] theorem State.withDes_recIn (s : State) (u : Des) : (s.withDes u).recIn = s.recIn := rfl
@[simp] theorem State.withDes_pending (s : State) (u : Des) : (s.withDes u).pending = s.pending := rfl
@[simp] theorem State.withDes_rsp (s : State) (u : Des) : (s.withDes u).rsp = s.rsp := rfl

@[simp] theorem State.withPending_crcu (s : State) (rest : List HostInput) : (s.withPending rest).crcu = s.crcu := rfl
@[simp] theorem State.withPending_ser (s : State) (rest : List HostInput) : (s.withPending rest).ser = s.ser := rfl
@[simp] theorem State.withPending_des (s : State) (rest : List HostInput) : (s.withPending rest).des = s.des := rfl
@[simp] theorem State.withPending_fault (s : State) (rest : List HostInput) : (s.withPending rest).fault = s.fault := rfl
@[simp] theorem State.withPending_recIn (s : State) (rest : List HostInput) : (s.withPending rest).recIn = s.recIn := rfl
@[simp] theorem State.withPending_pending (s : State) (rest : List HostInput) : (s.withPending rest).pending = rest := rfl
@[simp] theorem State.withPending_rsp (s : State) (rest : List HostInput) : (s.withPending rest).rsp = s.rsp := rfl

@[simp] theorem State.present_crcu (s : State) (r : Record) (rest : List HostInput) : (s.present r rest).crcu = s.crcu := rfl
@[simp] theorem State.present_ser (s : State) (r : Record) (rest : List HostInput) : (s.present r rest).ser = s.ser := rfl
@[simp] theorem State.present_des (s : State) (r : Record) (rest : List HostInput) : (s.present r rest).des = s.des := rfl
@[simp] theorem State.present_fault (s : State) (r : Record) (rest : List HostInput) : (s.present r rest).fault = s.fault := rfl
@[simp] theorem State.present_recIn (s : State) (r : Record) (rest : List HostInput) : (s.present r rest).recIn = r := rfl
@[simp] theorem State.present_pending (s : State) (r : Record) (rest : List HostInput) : (s.present r rest).pending = rest := rfl
@[simp] theorem State.present_rsp (s : State) (r : Record) (rest : List HostInput) : (s.present r rest).rsp = s.rsp := rfl

@[simp] theorem State.idle_crcu (s : State) : (s.idle).crcu = s.crcu := rfl
@[simp] theorem State.idle_ser (s : State) : (s.idle).ser = s.ser := rfl
@[simp] theorem State.idle_des (s : State) : (s.idle).des = s.des := rfl
@[simp] theorem State.idle_fault (s : State) : (s.idle).fault = s.fault := rfl
@[simp] theorem State.idle_recIn (s : State) : (s.idle).recIn = s.recIn := rfl
@[simp] theorem State.idle_pending (s : State) : (s.idle).pending = s.pending := rfl
@[simp] theorem State.idle_rsp (s : State) : (s.idle).rsp = none := rfl

@[simp] theorem State.assertReset_crcu (s : State) : (s.assertReset).crcu = Crcu.reset := rfl
@[simp] theorem State.assertReset_ser (s : State) : (s.assertReset).ser = Ser.reset := rfl
@[simp] theorem State.assertReset_des (s : State) : (s.assertReset).des = Des.reset := rfl
@[simp] theorem State.assertReset_fault (s : State) : (s.assertReset).fault = s.fault := rfl
@[simp] theorem State.assertReset_recIn (s : State) : (s.assertReset).recIn = s.recIn := rfl
@[simp] theorem State.assertReset_pending (s : State) : (s.assertReset).pending = s.pending := rfl
@[simp] theorem State.assertReset_rsp (s : State) : (s.assertReset).rsp = none := rfl

@[simp] theorem State.illegalCommand_crcu (s : State) : (s.illegalCommand).crcu = s.crcu := rfl
@[simp] theorem State.illegalCommand_ser (s : State) : (s.illegalCommand).ser = s.ser := rfl
@[simp] theorem State.illegalCommand_des (s : State) : (s.illegalCommand).des = s.des := rfl
@[simp] theorem State.illegalCommand_fault (s : State) : (s.illegalCommand).fault = s.fault := rfl
@[simp] theorem State.illegalCommand_recIn (s : State) : (s.illegalCommand).recIn = s.recIn := rfl
@[simp] theorem State.illegalCommand_pending (s : State) : (s.illegalCommand).pending = s.pending := rfl
@[simp] theorem State.illegalCommand_rsp (s : State) : (s.illegalCommand).rsp = some .rspIllegal := rfl

@[simp] theorem Des.returnToMagic_desState (u : Des) : u.returnToMagic.desState = .readingMagic := rfl
@[simp] theorem Des.returnToMagic_magicIdx (u : Des) : u.returnToMagic.magicIdx = 0 := rfl
@[simp] theorem Des.returnToMagic_desLen (u : Des) : u.returnToMagic.desLen = u.desLen := rfl
@[simp] theorem Des.returnToMagic_desCnt (u : Des) : u.returnToMagic.desCnt = u.desCnt := rfl
@[simp] theorem Des.returnToMagic_scratch (u : Des) : u.returnToMagic.scratch = u.scratch := rfl
@[simp] theorem Des.returnToMagic_crcRx (u : Des) : u.returnToMagic.crcRx = u.crcRx := rfl
@[simp] theorem Des.returnToMagic_crcCnt (u : Des) : u.returnToMagic.crcCnt = u.crcCnt := rfl

end Sys2Proof.Machine
end

