-- ==== Sys2Proof/Laws/Deserializer.lean ====
section
/-! SUPPORT. Everything one byte can do to DES, said once, and the laws of a byte stream. -/

namespace Sys2Proof.Machine

/-- The three results of a completed frame attempt, each with its cause (R101, R102). -/
theorem Des.verdict_cases (c : Word) (u : Des) :
    (crc32 u.payloadBytes = c ∧ u.desLen = 64 ∧ u.verdict c = .rspDesOk (unpackRecord u.scratch)) ∨
    (crc32 u.payloadBytes = c ∧ u.desLen.val < 64 ∧
      u.verdict c = .rspDesPayloadError .payloadShort u.desLen) ∨
    (crc32 u.payloadBytes ≠ c ∧ u.verdict c = .rspDesInvalidChecksum c u.desLen u.scratch) := by
  unfold Des.verdict
  split
  case isTrue hc =>
    by_cases h : u.desLen.val = 64
    · rw [unpack_full _ _ h]; exact .inl ⟨hc, Fin.ext h, rfl⟩
    · rw [unpack_short _ _ h]; exact .inr (.inl ⟨hc, by have := u.desLen.isLt; omega, rfl⟩)
  case isFalse hc => exact .inr (.inr ⟨hc, rfl⟩)

/-- Everything a byte that completes can do, by the state it is received in. -/
theorem Des.consume_done (mode : ZeroLenMode) (d : Byte) (u v : Des) (r : Response)
    (h : u.consume mode d = .done v r) :
    (u.desState = .readingMagic ∧ r = .rspNone ∧
      (v = u ∨ (∃ j : Fin 3, j.val = u.magicIdx.val + 1 ∧ v = { u with magicIdx := j }) ∨
        u.magicIdx = 2 ∧ v = { u with desState := .readingLength, magicIdx := 0 })) ∨
    (u.desState = .readingLength ∧
      (64 < d.toNat ∧ r = .rspDesInvalidLength ∧ v = u.returnToMagic ∨
        r = .rspNone ∧ ∃ n : Fin 65, n.val = d.toNat ∧
          v = { u with desState := .readingBytes, desLen := n, desCnt := 0,
                       scratch := Vector.replicate 64 0#8 })) ∨
    (u.desState = .readingBytes ∧ r = .rspNone ∧
      (mode = .consumeOne ∧ u.desLen = 0 ∧
          v = { u with desState := .readingChecksum, scratch := u.scratch.set 0 d, desCnt := 1, crcCnt := 0 } ∨
        u.desLen ≠ 0 ∧ ∃ (hc : u.desCnt.val < 64) (n : Fin 65), n.val = u.desCnt.val + 1 ∧
          (n = u.desLen ∧ v = { u with desState := .readingChecksum, scratch := u.scratch.set u.desCnt.val d,
                                       desCnt := n, crcCnt := 0 } ∨
            n ≠ u.desLen ∧ v = { u with scratch := u.scratch.set u.desCnt.val d, desCnt := n }))) ∨
    (u.desState = .readingChecksum ∧
      ((∃ n : Fin 4, n.val = u.crcCnt.val + 1 ∧ r = .rspNone ∧
          v = { u with crcRx := shiftInByte u.crcRx d, crcCnt := n }) ∨
        u.crcCnt = 3 ∧ r = u.verdict (shiftInByte u.crcRx d) ∧
          v = { u.returnToMagic with crcRx := shiftInByte u.crcRx d, crcCnt := 0 })) := by
  unfold Des.consume at h
  split at h
  case h_1 hs =>
    refine .inl ⟨hs, ?_⟩
    unfold Des.readMagic at h
    split at h
    · split at h <;> cases h
      · exact ⟨rfl, .inr (.inl ⟨_, rfl, rfl⟩)⟩
      · exact ⟨rfl, .inr (.inr ⟨Fin.ext (by have := u.magicIdx.isLt; omega), rfl⟩)⟩
    · cases h; exact ⟨rfl, .inl rfl⟩
  case h_2 hs =>
    refine .inr (.inl ⟨hs, ?_⟩)
    unfold Des.readLength at h
    split at h <;> cases h
    · exact .inr ⟨rfl, _, rfl, rfl⟩
    · exact .inl ⟨by omega, rfl, rfl⟩
  case h_3 hs =>
    refine .inr (.inr (.inl ⟨hs, ?_⟩))
    split at h
    case isTrue hl =>
      cases mode <;> cases h
      exact ⟨rfl, .inl ⟨rfl, Fin.ext hl, rfl⟩⟩
    case isFalse hl =>
      have hl' : u.desLen ≠ 0 := fun he => hl (congrArg Fin.val he)
      unfold Des.readPayload at h
      split at h
      case isTrue hc =>
        dsimp only at h
        split at h
        case isTrue hn => cases h; exact ⟨rfl, .inr ⟨hl', hc, _, rfl, .inl ⟨hn, rfl⟩⟩⟩
        case isFalse hn => cases h; exact ⟨rfl, .inr ⟨hl', hc, _, rfl, .inr ⟨hn, rfl⟩⟩⟩
      case isFalse => cases h
  case h_4 hs =>
    refine .inr (.inr (.inr ⟨hs, ?_⟩))
    unfold Des.readChecksum at h
    dsimp only at h
    split at h <;> cases h
    · exact .inl ⟨_, rfl, rfl, rfl⟩
    · exact .inr ⟨Fin.ext (by have := u.crcCnt.isLt; simp; omega), rfl, rfl⟩

/-- A byte raises a model fault only as the byte after a zero LEN byte, and only under `ZERO_LEN_MODE = Fault`. -/
theorem Des.consume_raises (mode : ZeroLenMode) (d : Byte) (u : Des) (f : FaultReason)
    (h : u.consume mode d = .raises f) : mode = .fault ∧ u.desState = .readingBytes ∧ u.desLen = 0 := by
  unfold Des.consume Des.readMagic Des.readLength Des.readZeroLength Des.readPayload Des.readChecksum at h
  split at h
  case h_3 hs =>
    split at h
    case isTrue hl => cases mode <;> first | exact ⟨rfl, hs, Fin.ext hl⟩ | cases h
    case isFalse =>
      split at h
      · dsimp only at h; split at h <;> cases h
      · cases h
  all_goals (try dsimp only at h); all_goals repeat (first | cases h | split at h)

/-- A byte has no outcome only where it would be stored past the scratch buffer. -/
theorem Des.consume_illFormed (mode : ZeroLenMode) (d : Byte) (u : Des) (h : u.consume mode d = .illFormed) :
    u.desState = .readingBytes ∧ u.desLen ≠ 0 ∧ u.desCnt = 64 := by
  unfold Des.consume Des.readMagic Des.readLength Des.readZeroLength Des.readPayload Des.readChecksum at h
  split at h
  case h_3 hs =>
    split at h
    case isTrue hl => cases mode <;> cases h
    case isFalse hl =>
      split at h
      case isTrue => dsimp only at h; split at h <;> cases h
      case isFalse hc =>
        exact ⟨hs, fun he => hl (congrArg Fin.val he), Fin.ext (by have := u.desCnt.isLt; simp; omega)⟩
  all_goals (try dsimp only at h); all_goals repeat (first | cases h | split at h)

/-- What an outcome does to the machine, read back from a next state. -/
theorem ByteOutcome.apply_next (o : ByteOutcome) (s t : State) (h : o.apply s = .next t) :
    (∃ u r, o = .done u r ∧ t = (s.withDes u).respond r) ∨ (∃ f, o = .raises f ∧ t = s.raise f) := by
  cases o <;> cases h
  · exact .inl ⟨_, _, rfl, rfl⟩
  · exact .inr ⟨_, rfl, rfl⟩

@[simp] theorem Des.feed_nil (mode : ZeroLenMode) (u : Des) : Des.feed mode [] u = some (u, []) := rfl

theorem Des.feed_cons (mode : ZeroLenMode) (d : Byte) (ds : List Byte) (u v w : Des) (r : Response)
    (rs : List Response) (h : u.consume mode d = .done v r) (hf : Des.feed mode ds v = some (w, rs)) :
    Des.feed mode (d :: ds) u = some (w, r :: rs) := by
  simp [Des.feed, h, hf]

theorem Des.feed_append (mode : ZeroLenMode) (as bs : List Byte) (u v w : Des) (rs qs : List Response)
    (ha : Des.feed mode as u = some (v, rs)) (hb : Des.feed mode bs v = some (w, qs)) :
    Des.feed mode (as ++ bs) u = some (w, rs ++ qs) := by
  induction as generalizing u rs with
  | nil => cases ha; simpa using hb
  | cons a as ih =>
    simp only [Des.feed] at ha
    split at ha
    · rename_i u' r hc
      simp only [Option.map_eq_some_iff, Prod.mk.injEq] at ha
      obtain ⟨⟨v', rs'⟩, hf, rfl, rfl⟩ := ha
      exact Des.feed_cons mode a _ u u' w r _ hc (ih u' rs' hf)
    · cases ha
    · cases ha

end Sys2Proof.Machine
end

