-- ==== Sys2Proof/Laws/PerInstr.lean ====
section
/-! SUPPORT. What holds of every command as syntax, one lemma per constructor. -/

namespace Sys2Proof.Laws.OpcodeMatch

/-- "Each opcode is matched by `cmd & 0xF00 == op << 8`" (R70). -/
def Statement (i : Instr) : Prop :=
  encode i &&& 0xF00#12 = (opcode i).setWidth 12 <<< 8

/-- The mask keeps the opcode of a word made of an opcode and a data byte. -/
theorem mask_append (op : BitVec 4) (data : Byte) :
    (op ++ data : CommandWord) &&& 0xF00#12 = op.setWidth 12 <<< 8 := by
  revert op data
  decide +kernel

theorem nop (data : Byte) : Statement (.nop data) := mask_append ..
theorem crcInit (data : Byte) : Statement (.crcInit data) := mask_append ..
theorem crcByte (d : Byte) : Statement (.crcByte d) := mask_append ..
theorem serEncode (cap : Byte) : Statement (.serEncode cap) := mask_append ..
theorem serPull (data : Byte) : Statement (.serPull data) := mask_append ..
theorem desByte (d : Byte) : Statement (.desByte d) := mask_append ..
theorem desReset (data : Byte) : Statement (.desReset data) := mask_append ..
theorem reserved7 (data : Byte) : Statement (.reserved7 data) := mask_append ..
theorem reserved8 (data : Byte) : Statement (.reserved8 data) := mask_append ..
theorem reserved9 (data : Byte) : Statement (.reserved9 data) := mask_append ..
theorem reservedA (data : Byte) : Statement (.reservedA data) := mask_append ..
theorem reservedB (data : Byte) : Statement (.reservedB data) := mask_append ..
theorem reservedC (data : Byte) : Statement (.reservedC data) := mask_append ..
theorem reservedD (data : Byte) : Statement (.reservedD data) := mask_append ..
theorem reservedE (data : Byte) : Statement (.reservedE data) := mask_append ..
theorem reservedF (data : Byte) : Statement (.reservedF data) := mask_append ..

end Sys2Proof.Laws.OpcodeMatch
end

