-- ==== Sys2Proof/Laws/Step.lean ====
section
/-! SUPPORT. What a step can be, and runs put together. -/

namespace Sys2Proof.Machine

/-- Everything a step that answers a next state can be. -/
theorem step_next (s t : State) (h : step s = .next t) :
    s.fault = none ∧
    (s.pending = [] ∧ t = s.idle ∨
      (∃ rest, s.pending = .reset :: rest ∧ t = (s.withPending rest).assertReset) ∨
      (∃ cmd r rest, s.pending = .command cmd r :: rest ∧
        exec (decodeWord cmd) (s.present r rest) = .next t)) := by
  unfold step at h
  split at h
  · cases h
  · rename_i hf
    refine ⟨hf, ?_⟩
    split at h
    · rename_i hp; cases h; exact .inl ⟨hp, rfl⟩
    · rename_i rest hp; cases h; exact .inr (.inl ⟨rest, hp, rfl⟩)
    · rename_i cmd r rest hp; exact .inr (.inr ⟨cmd, r, rest, hp, h⟩)

/-- A step that does not answer a next state comes from a recorded fault or from a command. -/
theorem step_stops (s : State) (f : Fault) (h : step s = .fault f) :
    (∃ r, s.fault = some r ∧ f = .faulted r) ∨
    (s.fault = none ∧ ∃ cmd r rest, s.pending = .command cmd r :: rest ∧
      exec (decodeWord cmd) (s.present r rest) = .fault f) := by
  unfold step at h
  split at h
  · rename_i r hf; cases h; exact .inl ⟨r, hf, rfl⟩
  · rename_i hf
    split at h
    · cases h
    · cases h
    · rename_i cmd r rest hp; exact .inr ⟨hf, cmd, r, rest, hp, h⟩

@[simp] theorem run_zero (s : State) : run 0 s = .next (s, []) := rfl

theorem run_succ (k : Nat) (s t u : State) (rs : List (Option Response)) (hs : step s = .next t)
    (hr : run k t = .next (u, rs)) : run (k + 1) s = .next (u, t.rsp :: rs) := by
  simp [run, hs, hr]

theorem run_succ_inv (k : Nat) (s u : State) (rs : List (Option Response)) (h : run (k + 1) s = .next (u, rs)) :
    ∃ t qs, step s = .next t ∧ run k t = .next (u, qs) ∧ rs = t.rsp :: qs := by
  unfold run at h
  split at h
  · rename_i t hs
    split at h
    · rename_i u' qs hr; cases h; exact ⟨t, qs, hs, hr, rfl⟩
    · cases h
    · cases h
  · cases h
  · cases h

theorem run_append (j k : Nat) (s t u : State) (rs qs : List (Option Response))
    (hj : run j s = .next (t, rs)) (hk : run k t = .next (u, qs)) :
    run (j + k) s = .next (u, rs ++ qs) := by
  induction j generalizing s rs with
  | zero => cases hj; simpa using hk
  | succ j ih =>
    obtain ⟨s', ps, hs, hr, rfl⟩ := run_succ_inv j s t rs hj
    rw [Nat.succ_add]
    exact run_succ _ s s' u _ hs (ih s' ps hr)

/-- Inputs that give a first command begin with that command's word. -/
theorem givesCommands_cons (inputs : List HostInput) (i : Instr) (is : List Instr)
    (h : givesCommands inputs (i :: is)) :
    ∃ r tail, inputs = .command (encode i) r :: tail ∧ givesCommands tail is := by
  match inputs, h with
  | .command cmd r :: tail, h =>
    simp only [givesCommands, List.map_cons, List.cons.injEq, HostInput.word?, Option.some.injEq] at h
    exact ⟨r, tail, by rw [h.1], h.2⟩

theorem givesCommands_nil (inputs : List HostInput) (h : givesCommands inputs []) : inputs = [] := by
  simpa [givesCommands] using h

theorem givesCommands_append (inputs : List HostInput) (is js : List Instr)
    (h : givesCommands inputs (is ++ js)) :
    ∃ a b, inputs = a ++ b ∧ givesCommands a is ∧ givesCommands b js := by
  simp only [givesCommands, List.map_append] at h
  obtain ⟨a, b, rfl, ha, hb⟩ := List.map_eq_append_iff.mp h
  exact ⟨a, b, rfl, ha, hb⟩

end Sys2Proof.Machine
end

