-- ==== Sys2Proof/Tests/Slice0.lean ====
section
/-! SUPPORT. Tests of the model. Expected values are those of spec 95_test_vectors.md (its vector named in the docstring)
or written out from the encoding tables of 30_encoding.md. `witness_<Statement>…` shows that the hypotheses of a
statement are met together; it proves no statement. -/

namespace Sys2Proof.Tests

open Sys2Proof Sys2Proof.Machine

/-! ## Helpers -/

/-- `REC_LIT` of 95_test_vectors.md. -/
def recLit : Record := { Record.zero with loopCnt := 52, vbat := 1200 }

/-- The machine after reset, but for DES. -/
def desAt (u : Des) : State := State.reset.withDes u

/-- DES hunting at a match index. -/
def hunting (i : Fin 3) : Des := { Des.reset with magicIdx := i }

/-- DES waiting for the LEN byte. -/
def atLength : Des := { Des.reset with desState := .readingLength }

/-- DES with `n` payload bytes of `len` taken, all of them `0x00`. -/
def atPayload (len n : Fin 65) : Des := { Des.reset with desState := .readingBytes, desLen := len, desCnt := n }

/-- DES with a payload of one byte `0xAA` taken, `k` checksum bytes received, `rx` shifted in. -/
def atChecksum (rx : Word) (k : Fin 4) : Des :=
  { Des.reset with desState := .readingChecksum, desLen := 1, desCnt := 1, crcRx := rx, crcCnt := k,
                   scratch := Des.reset.scratch.set 0 0xAA#8 }

/-- DES before the last checksum byte of a frame of `REC_LIT`. -/
def atLastByte : Des :=
  { Des.reset with desState := .readingChecksum, desLen := 64, desCnt := 64, crcRx := 0x0086E7DC#32, crcCnt := 3,
                   scratch := pack recLit }

/-- SER with the frame of `REC_LIT`, `k` bytes pulled. -/
def pulled (k : Fin 73) : State := State.reset.withSer { Ser.load recLit with serRd := k }

/-- The host gives these commands, with zeros on `rec_in`. -/
def inputsOf (is : List Instr) : List HostInput := is.map fun i => .command (encode i) Record.zero

theorem inputsOf_gives (is : List Instr) : givesCommands (inputsOf is) is := by
  simp [givesCommands, inputsOf, HostInput.word?]

/-- The response of a step, if it has a next state. -/
def responseOf : Host.Outcome State Fault Refusal → Option Response
  | .next t => t.rsp
  | .fault _ => none
  | .refused _ => none

/-- The byte stream of a list of numbers. -/
def stream (bs : List Nat) : List Byte := bs.map (BitVec.ofNat 8)

/-- The result items of a byte stream from reset, and the DES state after it. -/
def itemsOf (mode : ZeroLenMode) (bs : List Nat) : Option (List ResultItem × Des) :=
  (Des.feed mode (stream bs) Des.reset).map fun (u, rs) => (resultItems rs, u)

/-! ## WellFormed: each check refuses an ill-formed term -/

theorem test_wf_refuses_operand_above_byte :
    AsmCommand.wf (.crcByte 256) = false ∧ AsmCommand.wf (.serEncode 256) = false ∧
    AsmCommand.wf (.desByte 256) = false ∧ AsmLine.wf (.serSend 256) = false := by decide

theorem test_wf_refuses_word_above_12_bits : AsmCommand.wf (.word 0x1000) = false := by decide

theorem test_wf_refuses_byte_list :
    AsmLine.wf (.crcBytes []) = false ∧ AsmLine.wf (.crcCompute [0, 256]) = false ∧
    AsmLine.wf (.desFeed [255, 256, 0]) = false ∧ AsmLine.wf (.command (.desByte 300)) = false := by decide

theorem test_wf_accepts_boundary :
    AsmCommand.wf (.crcByte 255) = true ∧ AsmCommand.wf (.word 0xFFF) = true ∧
    AsmLine.wf (.desFeed [0, 255]) = true ∧ AsmLine.wf (.serSend 255) = true := by decide

theorem test_canonical_refuses_ignored_data :
    Instr.canonical (.nop 0xFF) = false ∧ Instr.canonical (.reserved7 1) = false ∧
    Instr.canonical (.crcByte 0xFF) = true := by decide

theorem test_decode_refuses_short_and_wide :
    decode [] = .error .truncated ∧ decode [0x31#8] = .error .truncated ∧
    decode [0x31#8, 0x12#8] = .error .bitsAboveWord := by decide

/-! ## Decoding: words written out bit by bit, `op` then `data` (R69, R70) -/

theorem test_decode_control_words : decodeWord 0b0000_11111111#12 = .nop 0xFF := by decide

theorem test_decode_crc_words :
    decodeWord 0b0001_10101011#12 = .crcInit 0xAB ∧ decodeWord 0b0010_00110001#12 = .crcByte 0x31 := by decide

theorem test_decode_ser_words :
    decodeWord 0b0011_01001000#12 = .serEncode 72 ∧ decodeWord 0b0100_00000001#12 = .serPull 1 := by decide

theorem test_decode_des_words :
    decodeWord 0b0101_01111101#12 = .desByte 0x7D ∧ decodeWord 0b0110_10000000#12 = .desReset 0x80 := by decide

theorem test_decode_reserved_words :
    decodeWord 0b0111_11111111#12 = .reserved7 0xFF ∧ decodeWord 0b1000_00000000#12 = .reserved8 0 ∧
    decodeWord 0b1001_00000001#12 = .reserved9 1 ∧ decodeWord 0b1010_00000010#12 = .reservedA 2 ∧
    decodeWord 0b1011_00000011#12 = .reservedB 3 ∧ decodeWord 0b1100_00000100#12 = .reservedC 4 ∧
    decodeWord 0b1101_00000101#12 = .reservedD 5 ∧ decodeWord 0b1110_00000110#12 = .reservedE 6 ∧
    decodeWord 0b1111_11111111#12 = .reservedF 0xFF := by decide

theorem test_decodeTableWord :
    decodeTableWord 12 0x231 = some (.crcByte 0x31) ∧ decodeTableWord 16 0x348 = some (.serEncode 72) ∧
    decodeTableWord 16 0xFFF = some (.reservedF 0xFF) ∧ decodeTableWord 16 0x1231 = none := by decide

/-- The word placed is the one the very next step runs (C4: `crc.byte 0x31` after reset). -/
theorem test_withFetchWord_runs :
    responseOf (step (State.reset.withFetchWord 16 0x231)) = some (.rspCrc 0x83DCEFB7#32) := by decide +kernel

/-! ## CRCU (95_test_vectors.md 2.1) -/

/-- The `crc_step` vectors. -/
theorem test_crcStep_vectors :
    crcStep 0 0 = 0 ∧ crcStep 0 0x01 = 0x77073096#32 ∧ crcStep 0 0x80 = 0xEDB88320#32 ∧
    crcStep 0xFFFFFFFF#32 0 = 0x2DFD1072#32 := by decide +kernel

/-- C1, C2, C3, C6, C8. -/
theorem test_crc32_vectors :
    crc32 [] = 0 ∧ crc32 [0#8] = 0xD202EF8D#32 ∧ crc32 [0xFF#8] = 0xFF000000#32 ∧
    crc32 [0x7D#8, 0x08#8, 0x8D#8] = 0xF8B85784#32 ∧ crc32 [0xAA#8] = 0xE401A57B#32 := by decide +kernel

/-- C4, second and third row of the table: the remainder and the response. -/
theorem test_crcByte_table_row :
    responseOf (exec (.crcByte 0x32) (State.reset.withCrcu ⟨0x7C231048#32⟩)) = some (.rspCrc 0x4F5344CD#32) ∧
    crcStep 0xB0ACBB32#32 0x33 = 0x77B79C2D#32 := by decide +kernel

/-- N4: CRC_INIT with ignored data. -/
theorem test_crcInit_ignores_data :
    responseOf (exec (.crcInit 0xAB) (State.reset.withCrcu ⟨7⟩)) = some (.rspCrc 0) := by decide +kernel

/-! ## SER (2.2) -/

/-- S1, the frame of `REC_LIT`. -/
theorem test_frame_S1 :
    (frame recLit).toList = stream ([0x7D, 0x08, 0x8D, 0x40] ++ List.replicate 19 0 ++ [0x34] ++
      List.replicate 6 0 ++ [0x04, 0xB0] ++ List.replicate 36 0 ++ [0x86, 0xE7, 0xDC, 0xF1]) := by decide +kernel

/-- S3, the frame of a record whose fields all differ. -/
theorem test_frame_S3 :
    (frame { deviceId := Vector.ofFn fun i => BitVec.ofNat 8 i.val, loopCnt := 0xFFFFFFFF#32, tipCnt := 1,
             vbat := 0x12345678#32, temperature := 0x41AC0000#32, relativeHumidity := 0x425D0000#32,
             usbBytesRead := 2, usbBytesWritten := 3, usbErrorCnt := 4, loraRxBytes := 5, loraTxBytes := 6,
             loraErrorCnt := 7, hardwareErrOtherCnt := 8 }).toList =
      stream ([0x7D, 0x08, 0x8D, 0x40, 0, 1, 2, 3, 4, 5, 6, 7, 8, 9, 10, 11, 12, 13, 14, 15] ++
        [0xFF, 0xFF, 0xFF, 0xFF, 0, 0, 0, 1, 0x12, 0x34, 0x56, 0x78, 0x41, 0xAC, 0, 0, 0x42, 0x5D, 0, 0] ++
        [0, 0, 0, 2, 0, 0, 0, 3, 0, 0, 0, 4, 0, 0, 0, 5, 0, 0, 0, 6, 0, 0, 0, 7, 0, 0, 0, 8] ++
        [0xF0, 0x78, 0x6B, 0xFF]) := by decide +kernel

/-- S4, the capacity boundary. -/
theorem test_serEncode_capacity :
    responseOf (exec (.serEncode 71) State.reset) = some .rspSerTooSmall ∧
    responseOf (exec (.serEncode 72) State.reset) = some (.rspSerOk 72) := by decide +kernel

/-- S5, S6, S8: nothing after reset, byte 4 of S1 after three pulls, nothing after 72. -/
theorem test_serPull_edges :
    responseOf (exec (.serPull 0) State.reset) = some .rspSerEmpty ∧
    responseOf (exec (.serPull 0) (pulled 3)) = some (.rspSerByte 0x40) ∧
    responseOf (exec (.serPull 0) (pulled 72)) = some .rspSerEmpty := by decide +kernel

/-! ## DES (2.3) -/

/-- D4: the LEN byte 65 ends the attempt, and `des_len` keeps its reset value. -/
theorem test_des_D4 :
    itemsOf .fault [0x7D, 0x08, 0x8D, 0x41] = some ([.invalidLength], Des.reset) := by decide +kernel

/-- D7: a payload of one byte with a correct CRC. -/
theorem test_des_D7 :
    (itemsOf .fault [0x7D, 0x08, 0x8D, 0x01, 0xAA, 0xE4, 0x01, 0xA5, 0x7B]).map (fun x => (x.1, x.2.crcRx)) =
      some ([.payloadError .payloadShort 1], 0xE401A57B#32) := by decide +kernel

/-- D8: the evidence of a wrong CRC. -/
theorem test_des_D8 :
    (itemsOf .fault [0x7D, 0x08, 0x8D, 0x01, 0xAA, 0, 0, 0, 0]).map (fun x => x.1) =
      some [.invalidChecksum (Vector.replicate 4 0) ((Vector.replicate 64 0).set 0 0xAA) 1] := by decide +kernel

/-- D9, D11, D12: the magic defect, seen by the LEN byte after the lock. -/
theorem test_des_magic_defect :
    itemsOf .fault [0x7D, 0x7D, 0x08, 0x8D, 0x41] = some ([.invalidLength], Des.reset) ∧
    itemsOf .fault [0x7D, 0x00, 0x08, 0x00, 0x8D, 0x41] = some ([.invalidLength], Des.reset) ∧
    itemsOf .fault [0x7D, 0x00, 0x08] = some ([], hunting 2) := by decide +kernel

/-- D1, its last byte. -/
theorem test_des_D1_last_byte :
    atLastByte.consume .fault 0xF1 =
      .done { atLastByte with desState := .readingMagic, crcRx := 0x86E7DCF1#32, crcCnt := 0 }
        (.rspDesOk recLit) := by decide +kernel

/-- Z2: the model fault, and no item before it (Z1). -/
theorem test_des_Z2 :
    itemsOf .fault [0x7D, 0x08, 0x8D, 0x00, 0x00] = none ∧
    (itemsOf .fault [0x7D, 0x08, 0x8D, 0x00]).map (fun x => (x.1, x.2)) = some ([], atPayload 0 0) := by
  decide +kernel

/-- Z3, Z4: the phantom byte. -/
theorem test_des_Z3_Z4 :
    (itemsOf .consumeOne [0x7D, 0x08, 0x8D, 0x00, 0x11, 0, 0, 0, 0]).map (fun x => (x.1, x.2.desCnt)) =
      some ([.payloadError .payloadShort 0], 1) ∧
    (itemsOf .consumeOne [0x7D, 0x08, 0x8D, 0x00, 0x11, 0, 0, 0, 1]).map (fun x => x.1) =
      some [.invalidChecksum #v[0, 0, 0, 1] ((Vector.replicate 64 0).set 0 0x11) 0] := by decide +kernel

/-- D13, its DES_RESET: the match index is cleared. -/
theorem test_desReset_D13 :
    exec (.desReset 0) (desAt (hunting 2)) = .next (State.reset.respond .rspNone) := rfl

/-! ## Control (2.4) -/

/-- N1, N2. -/
theorem test_nop : exec (.nop 0xFF) State.reset = .next (State.reset.respond .rspNone) := rfl

/-- N3, N5: in the middle of a frame attempt nothing is disturbed. -/
theorem test_reserved :
    exec (decodeWord 0x7FF#12) (desAt (atPayload 64 36)) = .next ((desAt (atPayload 64 36)).respond .rspIllegal) ∧
    exec (decodeWord 0xF00#12) State.reset = .next (State.reset.respond .rspIllegal) := ⟨rfl, rfl⟩

/-! ## The assembly notation (R73, R74; listings of part 3) -/

/-- P1. -/
theorem test_assembler_P1 :
    (readProgram ["crc.init                 ; 100".toList, "crc.bytes \"123456789\"    ; 231".toList]).map assemble =
      .ok (some [0x100#12, 0x231#12, 0x232#12, 0x233#12, 0x234#12, 0x235#12, 0x236#12, 0x237#12, 0x238#12,
        0x239#12]) := by decide +kernel

/-- P3, its first line, and P5, its last. -/
theorem test_assembler_feed_and_word :
    (readProgram ["des.feed 0x00, 0x55, 0x7D, 0x55".toList, ".word 0xFFF ; reserved".toList]).map assemble =
      .ok (some [0x500#12, 0x555#12, 0x57D#12, 0x555#12, 0xFFF#12]) := by decide +kernel

/-- The assembly errors of R73. -/
theorem test_assembler_errors :
    readLine "crc.byte 256".toList = .error .outOfRange ∧ readLine "nop 0".toList = .error .badOperand ∧
    readLine ".word 0x1000".toList = .error .outOfRange ∧ readLine "halt".toList = .error .unknownMnemonic := by
  decide +kernel

/-! ## Witnesses: the hypotheses of each statement are met -/

theorem witness_ResetEventSetsEveryRegister :
    (let s := (pulled 3).withPending [.reset]
     s.fault = none ∧ s.pending = .reset :: []) ∧
    (∃ t u, exec (.crcInit 0) (pulled 3) = .next t ∧ exec (.desReset 1) t = .next u) :=
  ⟨⟨rfl, rfl⟩, _, _, rfl, rfl⟩

theorem witness_RecordedFaultIsNeverCleared :
    let s := State.reset.raise .zeroLengthPayload
    s.fault = some .zeroLengthPayload ∧ ∃ t, exec (.desReset 0) s = .next t := ⟨rfl, _, rfl⟩

theorem witness_CrcStreamComputesCrc32 :
    let bs := stream [0x31, 0x32]
    let inputs := inputsOf (.crcInit 0 :: bs.map .crcByte)
    let s := (pulled 3).withPending (inputs ++ [.reset])
    s.fault = none ∧ s.pending = inputs ++ [.reset] ∧ givesCommands inputs (.crcInit 0 :: bs.map .crcByte) :=
  ⟨rfl, rfl, inputsOf_gives _⟩

/-- The boundary capacities of both clauses. -/
theorem witness_SerEncodeFramesRecordOrRefuses :
    (0#8).toNat < 72 ∧ (71#8).toNat < 72 ∧ 72 ≤ (72#8).toNat ∧ 72 ≤ (255#8).toNat := by decide

/-- The last byte of a frame, after it, and after reset. -/
theorem witness_SerPullHandsOutNextByte :
    (pulled 71).ser.serRd < (pulled 71).ser.serLen ∧ ¬ (pulled 72).ser.serRd < (pulled 72).ser.serLen ∧
    ¬ State.reset.ser.serRd < State.reset.ser.serLen := ⟨by decide, by decide, by decide⟩

theorem witness_PullsHandOutWholeFrameThenNothing :
    let pulls := List.replicate 73 0#8
    let inputs := inputsOf (pulls.map .serPull)
    let s := State.reset.withPending (.command (encode (.serEncode 72)) recLit :: (inputs ++ []))
    s.fault = none ∧ 72 ≤ (72#8).toNat ∧ pulls.length = 73 ∧
    s.pending = .command (encode (.serEncode 72)) recLit :: (inputs ++ []) ∧
    givesCommands inputs (pulls.map .serPull) :=
  ⟨rfl, by decide, by simp, rfl, inputsOf_gives _⟩

theorem witness_PackAndUnpackAreInverse :
    ∃ r, unpack (Vector.replicate 64 0x5A#8) 64 = .ok r := ⟨_, rfl⟩

/-- Each match index; indexes 0 and 1 fall under the first clause, 2 under the second. -/
theorem witness_MagicByteAdvancesOrLocks :
    (∀ i : Fin 3, (desAt (hunting i)).des.desState = .readingMagic) ∧
    (0x7D#8 = Config.magic[(desAt (hunting 0)).des.magicIdx.val] ∧
      (1 : Fin 3).val = (desAt (hunting 0)).des.magicIdx.val + 1) ∧
    (0x08#8 = Config.magic[(desAt (hunting 1)).des.magicIdx.val] ∧
      (2 : Fin 3).val = (desAt (hunting 1)).des.magicIdx.val + 1) ∧
    (0x8D#8 = Config.magic[(desAt (hunting 2)).des.magicIdx.val] ∧ (desAt (hunting 2)).des.magicIdx = 2) :=
  ⟨fun _ => rfl, ⟨rfl, rfl⟩, ⟨rfl, rfl⟩, ⟨rfl, rfl⟩⟩

theorem witness_MismatchingByteKeepsMagicIndex :
    ∀ i : Fin 3, (desAt (hunting i)).des.desState = .readingMagic ∧
      0x00#8 ≠ Config.magic[(desAt (hunting i)).des.magicIdx.val] ∧
      (i ≠ 0 → 0x7D#8 ≠ Config.magic[(desAt (hunting i)).des.magicIdx.val]) := by decide +kernel

theorem witness_LengthAboveSixtyFourIsInvalid :
    (desAt atLength).des.desState = .readingLength ∧ 64 < (65#8).toNat ∧ 64 < (255#8).toNat := by decide

theorem witness_AcceptedLengthZeroesScratch :
    (desAt atLength).des.desState = .readingLength ∧ (0 : Fin 65).val = (0#8).toNat ∧
    (64 : Fin 65).val = (64#8).toNat := by decide

/-- A payload of one byte, the last byte of 64 and the first of 64. -/
theorem witness_PayloadByteIsStoredAndCounted :
    (let u := (desAt (atPayload 1 0)).des
     u.desState = .readingBytes ∧ 1 ≤ u.desLen.val ∧ (1 : Fin 65).val = u.desCnt.val + 1 ∧ 1 = u.desLen) ∧
    (let u := (desAt (atPayload 64 63)).des
     u.desState = .readingBytes ∧ 1 ≤ u.desLen.val ∧ (64 : Fin 65).val = u.desCnt.val + 1 ∧ 64 = u.desLen) ∧
    (let u := (desAt (atPayload 64 0)).des
     u.desState = .readingBytes ∧ 1 ≤ u.desLen.val ∧ (1 : Fin 65).val = u.desCnt.val + 1 ∧ 1 ≠ u.desLen) := by
  decide +kernel

/-- A state of each clause: `des_cnt` 64 and 63. -/
theorem witness_OnlyAStorePastScratchStopsACommand :
    (let u := (desAt (atPayload 64 64)).des
     u.desState = .readingBytes ∧ 1 ≤ u.desLen.val ∧ u.desCnt = 64) ∧
    ¬ ((∃ d, Instr.desByte 0 = .desByte d) ∧ (desAt (atPayload 64 63)).des.desState = .readingBytes ∧
      1 ≤ (desAt (atPayload 64 63)).des.desLen.val ∧ (desAt (atPayload 64 63)).des.desCnt = 64) :=
  ⟨by decide +kernel, fun h => absurd h.2.2.2 (by decide +kernel)⟩

theorem witness_ZeroLengthPayloadFollowsMode :
    (desAt (atPayload 0 0)).des.desState = .readingBytes ∧ (desAt (atPayload 0 0)).des.desLen = 0 := ⟨rfl, rfl⟩

/-- The first and the third checksum byte, and the fourth. -/
theorem witness_ChecksumBytesShiftInBigEndian :
    (∀ k, (desAt (atChecksum 0 k)).des.desState = .readingChecksum) ∧
    (1 : Fin 4).val = (desAt (atChecksum 0 0)).des.crcCnt.val + 1 ∧
    (3 : Fin 4).val = (desAt (atChecksum 0 2)).des.crcCnt.val + 1 ∧
    (desAt (atChecksum 0xE401A5#32 3)).des.crcCnt = 3 ∧ (atChecksum 0xFFFFFFFF#32 0).crcCnt = 0 :=
  ⟨fun _ => rfl, rfl, rfl, rfl, rfl⟩

theorem witness_FourthChecksumByteGivesVerdict :
    (desAt atLastByte).des.desState = .readingChecksum ∧ (desAt atLastByte).des.crcCnt = 3 ∧
    0x86E7DCF1#32 = ((desAt atLastByte).des.crcRx <<< 8) ||| (0xF1#8).setWidth 32 := by decide +kernel

theorem witness_UnpackNeedsExactlySixtyFourBytes : (0 : Fin 65) ≠ 64 ∧ (63 : Fin 65) ≠ 64 ∧ (64 : Fin 65) = 64 := by
  decide

theorem witness_ReservedOpcodesAnswerIllegal :
    Instr.reserved7 0xFF ∈ [Instr.reserved7 0xFF, .reserved8 0xFF, .reserved9 0xFF, .reservedA 0xFF,
      .reservedB 0xFF, .reservedC 0xFF, .reservedD 0xFF, .reservedE 0xFF, .reservedF 0xFF] ∧
    7 ≤ (0x7#4).toNat ∧ 7 ≤ (0xF#4).toNat := by decide

theorem witness_IgnoredDataHasNoEffect :
    (∀ op ∈ [0x0#4, 0x1#4, 0x4#4, 0x6#4, 0x7#4, 0xF#4], op ≠ 0x2#4 ∧ op ≠ 0x3#4 ∧ op ≠ 0x5#4) := by decide

theorem witness_StepRunsTheDecodedCommand :
    let s := State.reset.withPending [.command 0x231#12 recLit]
    s.fault = none ∧ s.pending = .command 0x231#12 recLit :: [] := ⟨rfl, rfl⟩

theorem witness_IdleStepHoldsEveryRegister :
    (pulled 3).fault = none ∧ (pulled 3).pending = [] := ⟨rfl, rfl⟩

theorem witness_DecodeAndEncodeAgree : decode [0x31#8, 0x02#8, 0x48#8] = .ok (.crcByte 0x31, [0x48#8]) := by decide

theorem witness_AssembledWordsDecodeToTheirCommands :
    (AsmCommand.wf (.crcByte 255) = true ∧ ∀ w, AsmCommand.crcByte 255 ≠ .word w) ∧
    AsmCommand.wf (.serEncode 256) = false ∧ AsmLine.wf (.crcBytes []) = false ∧
    AsmCommand.wf (.word 0xFFF) = true ∧ AsmLine.wf (.crcBytes [0]) = true ∧
    AsmLine.wf (.crcCompute [0, 255]) = true ∧ AsmLine.wf (.desFeed [255]) = true ∧
    AsmLine.wf (.serSend 0) = true ∧ AsmLine.wf (.serSend 255) = true ∧
    assemble [.command .nop] = some [0x000#12] ∧ assemble [.command .desReset] = some [0x600#12] :=
  ⟨⟨rfl, nofun⟩, rfl, rfl, rfl, rfl, rfl, rfl, rfl, rfl, rfl, rfl⟩

/-- A well-formed state in the middle of a frame attempt: one of two payload bytes taken, three bytes pulled. -/
def midFrame : State :=
  (pulled 3).withDes { atPayload 2 1 with scratch := Des.reset.scratch.set 0 0xAA#8 }

theorem midFrame_wellFormed : midFrame.WellFormed :=
  ⟨⟨.inr rfl, by decide⟩, ⟨fun _ => rfl, fun _ => .inl ⟨by decide, by decide⟩, nofun, fun _ => rfl, by decide +kernel⟩⟩

/-- A well-formed state before the fourth checksum byte of a payload of one byte. -/
theorem atChecksum_wellFormed : (desAt (atChecksum 0 3)).WellFormed :=
  ⟨⟨.inl rfl, by decide⟩,
    ⟨fun _ => rfl, nofun, fun _ => .inl ⟨by decide, rfl⟩, fun h => absurd rfl h, by decide +kernel⟩⟩

theorem witness_StepKeepsWellFormed :
    midFrame.WellFormed ∧ ∃ t, step midFrame = .next t := ⟨midFrame_wellFormed, _, rfl⟩

theorem witness_StepKeepsFrameInSerializer :
    (pulled 3).ser.HoldsFrame ∧ ∃ t, step (pulled 3) = .next t := ⟨.inr ⟨rfl, recLit, rfl⟩, _, rfl⟩

theorem witness_WellFormedMachineAlwaysSteps : midFrame.WellFormed ∧ midFrame.fault = none :=
  ⟨midFrame_wellFormed, rfl⟩

theorem witness_CommandsWriteOnlyTheirSubUnit :
    ∃ t, exec (.serPull 0) midFrame = .next t ∧ subUnit (.serPull 0) ≠ some .crcu ∧
      subUnit (.serPull 0) ≠ some .des ∧ subUnit (.nop 0) ≠ some .ser ∧ t.fault = none :=
  ⟨_, rfl, by decide, by decide, by decide, rfl⟩

theorem witness_CommandsToDifferentSubUnitsCommute :
    subUnit (.serPull 0) ≠ none ∧ subUnit (.desByte 0xBB) ≠ none ∧ subUnit (.serPull 0) ≠ subUnit (.desByte 0xBB) ∧
    ∃ t x y, run 2 { midFrame with
        pending := .command (encode (.serPull 0)) recLit :: .command (encode (.desByte 0xBB)) recLit :: [] } =
      .next (t, [x, y]) ∧ t.fault = none := ⟨by decide, by decide, by decide, _, _, _, rfl, rfl⟩

theorem witness_OnlySerEncodeReadsTheRecord :
    (∀ cap, Instr.desByte 0 ≠ .serEncode cap) ∧ (∃ t, exec (.desByte 0) midFrame = .next t) ∧
    ∃ f, exec (.desByte 0) (desAt (atPayload 64 64)) = .fault f := ⟨nofun, ⟨_, rfl⟩, _, rfl⟩

theorem witness_FrameDependsOnRecordAlone :
    (pulled 3).recIn = (desAt atLength).recIn ∧ 72 ≤ (72#8).toNat ∧ 72 ≤ (255#8).toNat :=
  ⟨rfl, by decide, by decide⟩

theorem witness_DeserializerIsIsolated :
    let t := { (midFrame.withCrcu ⟨7⟩).withSer Ser.reset with rsp := some .rspNone }
    midFrame.AgreeOnDes t ∧ ∃ s' rs, run 1 midFrame = .next (s', rs) := ⟨⟨rfl, rfl, rfl⟩, _, _, rfl⟩

/-- An item on the LEN byte and an item on the fourth checksum byte. -/
theorem witness_ResultItemsResynchronize :
    (∃ t, exec (.desByte 65) (desAt atLength) = .next t ∧ t.rsp = some .rspDesInvalidLength ∧
      Response.resultItem .rspDesInvalidLength = some .invalidLength) ∧
    (∃ t r item, exec (.desByte 0) (desAt (atChecksum 0 3)) = .next t ∧ t.rsp = some r ∧
      r.resultItem = some item ∧ item ≠ .invalidLength) :=
  ⟨⟨_, rfl, rfl, rfl⟩, _, .rspDesInvalidChecksum 0 1 (atChecksum 0 3).scratch, _, rfl, by decide +kernel, rfl, nofun⟩

/-- Each of the five errors is reported somewhere. -/
theorem witness_EveryReportedErrorHasItsCause :
    (responseOf (exec (.desByte 65) (desAt atLength))).bind Response.error = some .invalidLength ∧
    (responseOf (exec (.desByte 0x7C) (desAt (atChecksum 0xE401A5#32 3)))).bind Response.error =
      some .invalidChecksum ∧
    (responseOf (exec (.desByte 0x7B) (desAt (atChecksum 0xE401A5#32 3)))).bind Response.error =
      some .payloadError ∧
    (responseOf (exec (.serEncode 71) State.reset)).bind Response.error = some .bufferTooSmall ∧
    (responseOf (exec (.reserved7 0) State.reset)).bind Response.error = some .illegalCommand := by
  decide +kernel

theorem witness_InvalidChecksumCarriesPaddedPayload :
    (desAt (atChecksum 0 3)).WellFormed ∧
    (∃ t, exec (.desByte 0) (desAt (atChecksum 0 3)) = .next t ∧
      t.rsp = some (.rspDesInvalidChecksum 0 1 (atChecksum 0 3).scratch)) ∧ 1 ≤ (1 : Fin 65).val :=
  ⟨atChecksum_wellFormed, ⟨_, rfl, by decide +kernel⟩, by decide⟩

theorem witness_ResponseFieldsOfEachKind :
    (Response.rspSerByte 1).data ≠ 0 ∧ (Response.rspDesPayloadError .payloadShort 1).len ≠ 0 ∧
    (Response.rspDesOk recLit).record ≠ Record.zero ∧
    (Response.rspDesInvalidChecksum 0 1 (atChecksum 0 3).scratch).payload ≠ Vector.replicate 64 0#8 := by
  decide +kernel

theorem witness_IdempotentCommands :
    Instr.serEncode 72 ∈ [Instr.nop 72, .crcInit 72, .desReset 72, .serEncode 72] ∧
    ∃ t, exec (.serEncode 72) (pulled 3) = .next t := ⟨by decide, _, rfl⟩

theorem witness_HuntLocksOnMagicSubsequence :
    (hunting 1).desState = .readingMagic ∧
    ¬ (Config.magic.toList.drop (hunting 1).magicIdx).Sublist [0x7D#8, 0x08#8] ∧
    (Config.magic.toList.drop (hunting 1).magicIdx).Sublist ([0x7D#8, 0x08#8] ++ [0x8D#8]) :=
  ⟨rfl, by decide +kernel, by decide +kernel⟩

theorem witness_EveryMatchIndexLocksOnTheFrame : ∀ i, (hunting i).desState = .readingMagic := fun _ => rfl

/-- Payloads of 1 and 64 bytes, each with a checksum that matches and one that does not. -/
theorem witness_FrameAttemptYieldsOneResult :
    (∀ (p : List Byte) (c : Vector Byte 4),
      let inputs := inputsOf ((BitVec.ofNat 8 p.length :: (p ++ c.toList)).map .desByte)
      let s := (desAt atLength).withPending (inputs ++ [])
      s.fault = none ∧ s.des.desState = .readingLength ∧ s.pending = inputs ++ [] ∧
      givesCommands inputs ((BitVec.ofNat 8 p.length :: (p ++ c.toList)).map .desByte)) ∧
    (1 ≤ (stream [0xAA]).length ∧ (stream [0xAA]).length ≤ 64 ∧
      crc32 (stream [0xAA]) = be32 #v[0xE4, 0x01, 0xA5, 0x7B] ∧ crc32 (stream [0xAA]) ≠ be32 #v[0, 0, 0, 0]) ∧
    (1 ≤ (List.replicate 64 0#8).length ∧ (List.replicate 64 0#8).length ≤ 64 ∧
      crc32 (List.replicate 64 0#8) = be32 #v[0x75, 0x8D, 0x63, 0x36] ∧
      crc32 (List.replicate 64 0#8) ≠ be32 #v[0, 0, 0, 0]) :=
  ⟨fun _ _ => ⟨rfl, rfl, rfl, inputsOf_gives _⟩, by decide +kernel, by decide +kernel⟩

theorem witness_FrameDecodesToItsRecord :
    let inputs := inputsOf ((frame recLit).toList.map .desByte)
    let s := (desAt (hunting 2)).withPending (inputs ++ [])
    s.fault = none ∧ s.des.desState = .readingMagic ∧ s.pending = inputs ++ [] ∧
    givesCommands inputs ((frame recLit).toList.map .desByte) := ⟨rfl, rfl, rfl, inputsOf_gives _⟩

theorem witness_LeadingGarbageDoesNotLoseTheFrame :
    let garbage := stream [0x00, 0x55, 0x7D, 0x55]
    let inputs := inputsOf ((garbage ++ (frame recLit).toList).map .desByte)
    let s := State.reset.withPending (inputs ++ [])
    s.fault = none ∧ s.des.desState = .readingMagic ∧
    ¬ (Config.magic.toList.drop s.des.magicIdx).Sublist garbage ∧ s.pending = inputs ++ [] ∧
    givesCommands inputs ((garbage ++ (frame recLit).toList).map .desByte) :=
  ⟨rfl, rfl, by decide +kernel, rfl, inputsOf_gives _⟩

theorem witness_FlippedPayloadBitIsDetected :
    let corrupted := (pack recLit).set 63 ((pack recLit)[63] ^^^ (1#8 <<< 7))
    let is := ((frame recLit).toList.take 4 ++ corrupted.toList ++ (frame recLit).toList.drop 68 ++
      (frame Record.zero).toList).map Instr.desByte
    let s := State.reset.withPending (inputsOf is ++ [])
    s.fault = none ∧ s.des.desState = .readingMagic ∧ s.pending = inputsOf is ++ [] ∧
    corrupted = (pack recLit).set (63 : Fin 64).val
      ((pack recLit)[(63 : Fin 64).val] ^^^ (1#8 <<< (7 : Fin 8).val)) ∧
    givesCommands (inputsOf is) is := ⟨rfl, rfl, rfl, rfl, inputsOf_gives _⟩

theorem witness_EncodedFramePulledAndFedBackDecodes :
    let pulls := List.replicate 72 0#8
    let bytes := (frame recLit).toList
    let inputs := inputsOf (pulls.map .serPull)
    let feeds := inputsOf (bytes.map .desByte)
    let s := State.reset.withPending (.command (encode (.serEncode 255)) recLit :: (inputs ++ (feeds ++ [])))
    s.fault = none ∧ s.des.desState = .readingMagic ∧ 72 ≤ (255#8).toNat ∧ pulls.length = 72 ∧
    s.pending = .command (encode (.serEncode 255)) recLit :: (inputs ++ (feeds ++ [])) ∧
    givesCommands inputs (pulls.map .serPull) ∧ givesCommands feeds (bytes.map .desByte) :=
  ⟨rfl, rfl, by decide, by simp, rfl, inputsOf_gives _, inputsOf_gives _⟩

/-- A stream with an item in the middle and none after it. -/
theorem witness_ResultItemsAreTheOtherResponses :
    ∃ v rs, Des.feed .fault (stream [0x8D, 0x41, 0x00]) (hunting 2) = some (v, rs) ∧
      resultItems rs = [.invalidLength] := ⟨_, _, rfl, rfl⟩

end Sys2Proof.Tests
end

section
/-! What a command can do to the machine, said once, and the statements of spec 00_scope.md that follow from it. -/

namespace Sys2Proof.Machine

/-- A step whose next input is a command, as an equation for rewriting (R21, R43). -/
theorem step_of_command (s : State) (cmd : CommandWord) (r : Record) (rest : List HostInput)
    (hf : s.fault = none) (hp : s.pending = .command cmd r :: rest) :
    step s = exec (decodeWord cmd) (s.present r rest) := by
  rw [step, hf, hp]

theorem execSerEncode_next (cap : Byte) (s t : State) (h : execSerEncode cap s = .next t) :
    t = s.respond .rspSerTooSmall ∨ t = (s.withSer (Ser.load s.recIn)).respond (.rspSerOk 72) := by
  unfold execSerEncode at h
  split at h
  · cases h; exact .inl rfl
  · cases h; exact .inr rfl

theorem execSerPull_next (data : Byte) (s t : State) (h : execSerPull data s = .next t) :
    t = s.respond .rspSerEmpty ∨
      ∃ n b, t = (s.withSer { s.ser with serRd := n }).respond (.rspSerByte b) := by
  unfold execSerPull at h
  split at h
  · cases h; exact .inr ⟨_, _, rfl⟩
  · cases h; exact .inl rfl

/-- Every next state a command can give: a response alone, or the addressed sub-unit's new state with a response, or,
under a DES command, a model fault. -/
theorem exec_next (i : Instr) (s t : State) (h : exec i s = .next t) :
    (∃ r, t = s.respond r) ∨
    (subUnit i = some .crcu ∧ ∃ u r, t = (s.withCrcu u).respond r) ∨
    (subUnit i = some .ser ∧ ∃ u r, t = (s.withSer u).respond r) ∨
    (subUnit i = some .des ∧ ((∃ u r, t = (s.withDes u).respond r) ∨ ∃ f, t = s.raise f)) := by
  cases i with
  | crcInit _ | crcByte _ => cases h; exact .inr (.inl ⟨rfl, _, _, rfl⟩)
  | serEncode cap =>
    obtain ht | ht := execSerEncode_next cap s t h
    · exact .inl ⟨_, ht⟩
    · exact .inr (.inr (.inl ⟨rfl, _, _, ht⟩))
  | serPull data =>
    obtain ht | ⟨n, b, ht⟩ := execSerPull_next data s t h
    · exact .inl ⟨_, ht⟩
    · exact .inr (.inr (.inl ⟨rfl, _, _, ht⟩))
  | desByte d =>
    obtain ⟨u, r, -, ht⟩ | ⟨f, -, ht⟩ := ByteOutcome.apply_next _ s t h
    · exact .inr (.inr (.inr ⟨rfl, .inl ⟨u, r, ht⟩⟩))
    · exact .inr (.inr (.inr ⟨rfl, .inr ⟨f, ht⟩⟩))
  | desReset _ => cases h; exact .inr (.inr (.inr ⟨rfl, .inl ⟨_, _, rfl⟩⟩))
  | nop _ | reserved7 _ | reserved8 _ | reserved9 _ | reservedA _ | reservedB _ | reservedC _
  | reservedD _ | reservedE _ | reservedF _ => cases h; exact .inl ⟨_, rfl⟩

/-- Settles O37, from the list of next states a command can give. -/
theorem commandsWriteOnlyTheirSubUnit : Obligations.CommandsWriteOnlyTheirSubUnit := by
  intro i s t h
  obtain ⟨r, rfl⟩ | ⟨hi, u, r, rfl⟩ | ⟨hi, u, r, rfl⟩ | ⟨hi, ⟨u, r, rfl⟩ | ⟨f, rfl⟩⟩ := exec_next i s t h
  case inl => simp
  all_goals simp [hi]

/-- Settles O28: the state `step` gives to `exec` is the one `State.present` builds. -/
theorem stepRunsTheDecodedCommand : Obligations.StepRunsTheDecodedCommand :=
  step_of_command

end Sys2Proof.Machine
end

section
/-! What a step leaves in SER and in DES, and the invariants of spec 10_state.md that follow from it (R31, R32, R46). -/

namespace Sys2Proof.Machine

/-! ## What a command and a step leave in SER and in DES -/

theorem exec_ser_eq (i : Instr) (s t : State) (hi : subUnit i ≠ some .ser) (h : exec i s = .next t) : t.ser = s.ser :=
  have ⟨_, hser, _⟩ := commandsWriteOnlyTheirSubUnit i s t h
  hser hi

theorem exec_des_eq (i : Instr) (s t : State) (hi : subUnit i ≠ some .des) (h : exec i s = .next t) : t.des = s.des :=
  have ⟨_, _, hdes, _⟩ := commandsWriteOnlyTheirSubUnit i s t h
  (hdes hi).1

/-- SER_PULL moves the read index on only where a byte is left (R88). -/
theorem execSerPull_ser (data : Byte) (s t : State) (h : execSerPull data s = .next t) :
    t.ser = s.ser ∨
      ∃ n : Fin 73, s.ser.serRd < s.ser.serLen ∧ n.val = s.ser.serRd.val + 1 ∧ t.ser = { s.ser with serRd := n } := by
  unfold execSerPull at h
  split at h
  case isTrue hlt => cases h; exact .inr ⟨_, hlt, rfl, rfl⟩
  case isFalse => cases h; exact .inl rfl

/-- Everything a command can leave in SER. -/
theorem exec_ser (i : Instr) (s t : State) (h : exec i s = .next t) :
    t.ser = s.ser ∨ t.ser = Ser.load s.recIn ∨
      ∃ n : Fin 73, s.ser.serRd < s.ser.serLen ∧ n.val = s.ser.serRd.val + 1 ∧ t.ser = { s.ser with serRd := n } := by
  by_cases hi : subUnit i = some .ser
  case neg => exact .inl (exec_ser_eq i s t hi h)
  cases i with
  | serEncode cap =>
    obtain rfl | rfl := execSerEncode_next cap s t h
    · exact .inl rfl
    · exact .inr (.inl rfl)
  | serPull data => exact (execSerPull_ser data s t h).imp_right .inr
  | _ => cases hi

/-- Everything a command can leave in DES; a byte that raises a model fault leaves it as it was (log 4). -/
theorem exec_des (i : Instr) (s t : State) (h : exec i s = .next t) :
    t.des = s.des ∨ t.des = Des.reset ∨ ∃ d r, s.des.consume Config.zeroLenMode d = .done t.des r := by
  by_cases hi : subUnit i = some .des
  case neg => exact .inl (exec_des_eq i s t hi h)
  cases i with
  | desByte d =>
    obtain ⟨u, r, hu, rfl⟩ | ⟨f, -, rfl⟩ := ByteOutcome.apply_next _ s t h
    · exact .inr (.inr ⟨_, r, hu⟩)
    · exact .inl rfl
  | desReset data => cases h; exact .inr (.inl rfl)
  | _ => cases hi

/-- Everything a step can leave in SER. -/
theorem step_ser (s t : State) (h : step s = .next t) :
    t.ser = s.ser ∨ t.ser = Ser.reset ∨ (∃ r, t.ser = Ser.load r) ∨
      ∃ n : Fin 73, s.ser.serRd < s.ser.serLen ∧ n.val = s.ser.serRd.val + 1 ∧ t.ser = { s.ser with serRd := n } := by
  obtain ⟨-, ⟨-, rfl⟩ | ⟨rest, -, rfl⟩ | ⟨cmd, r, rest, -, hx⟩⟩ := step_next s t h
  · exact .inl rfl
  · exact .inr (.inl rfl)
  · obtain hs | hl | hp := exec_ser _ (s.present r rest) t hx
    · exact .inl hs
    · exact .inr (.inr (.inl ⟨r, hl⟩))
    · exact .inr (.inr (.inr hp))

/-- Everything a step can leave in DES. -/
theorem step_des (s t : State) (h : step s = .next t) :
    t.des = s.des ∨ t.des = Des.reset ∨ ∃ d r, s.des.consume Config.zeroLenMode d = .done t.des r := by
  obtain ⟨-, ⟨-, rfl⟩ | ⟨rest, -, rfl⟩ | ⟨cmd, r, rest, -, hx⟩⟩ := step_next s t h
  · exact .inl rfl
  · exact .inr (.inl rfl)
  · exact exec_des _ (s.present r rest) t hx

/-! ## SER: its registers stay legal and it holds a whole frame or none -/

theorem Ser.reset_wellFormed : Ser.reset.WellFormed := ⟨.inl rfl, le_refl _⟩

theorem Ser.load_wellFormed (r : Record) : (Ser.load r).WellFormed := ⟨.inr rfl, Fin.zero_le _⟩

theorem Ser.reset_holdsFrame : Ser.reset.HoldsFrame := .inl ⟨rfl, rfl⟩

theorem Ser.load_holdsFrame (r : Record) : (Ser.load r).HoldsFrame := .inr ⟨rfl, r, rfl⟩

theorem step_keeps_ser_wellFormed (s t : State) (hw : s.ser.WellFormed) (h : step s = .next t) : t.ser.WellFormed := by
  obtain he | he | ⟨r, he⟩ | ⟨n, hlt, hn, he⟩ := step_ser s t h
  · rwa [he]
  · rw [he]; exact Ser.reset_wellFormed
  · rw [he]; exact Ser.load_wellFormed r
  · have hle : n ≤ s.ser.serLen := by rw [Fin.le_def, hn]; exact hlt
    rw [he]; exact ⟨hw.serLen_legal, hle⟩

/-- Settles O35: a step writes `ser_frame` and `ser_len` only together, at reset and with a record's frame. -/
theorem stepKeepsFrameInSerializer : Obligations.StepKeepsFrameInSerializer := by
  intro s t hf h
  obtain he | he | ⟨r, he⟩ | ⟨n, -, -, he⟩ := step_ser s t h
  · rwa [he]
  · rw [he]; exact Ser.reset_holdsFrame
  · rw [he]; exact Ser.load_holdsFrame r
  · rw [he]; exact hf

/-! ## DES: every byte keeps R46 -/

/-- The two spellings of a payload length that is not 0, that of the statements and that of `Des.consume_done`. -/
theorem Des.one_le_desLen_iff (u : Des) : 1 ≤ u.desLen.val ↔ u.desLen ≠ 0 :=
  Nat.one_le_iff_ne_zero.trans Fin.val_ne_zero_iff

theorem Des.reset_wellFormed (mode : ZeroLenMode) : Des.reset.WellFormed mode where
  magicIdx_zero h := absurd rfl h
  readingBytes := nofun
  readingChecksum := nofun
  crcCnt_zero _ := rfl
  scratch_zero _ _ := Vector.getElem_replicate _

/-- A byte stored at index `k` of a buffer that is zero from `k` on leaves it zero from `k + 1` on. -/
theorem scratch_set_zero (S : Vector Byte 64) (d : Byte) (k : Nat) (hk : k < 64)
    (hz : ∀ i : Fin 64, k ≤ i.val → S[i.val] = 0#8) :
    ∀ i : Fin 64, k + 1 ≤ i.val → (S.set k d)[i.val] = 0#8 := by
  intro i hi
  rw [Vector.getElem_set_ne _ _ (by omega)]
  exact hz i (by omega)

section
variable {mode : ZeroLenMode} {u : Des} (hw : u.WellFormed mode)
include hw

theorem Des.WellFormed.returnToMagic (c : Word) :
    Des.WellFormed mode { u.returnToMagic with crcRx := c, crcCnt := 0 } where
  magicIdx_zero h := absurd rfl h
  readingBytes := nofun
  readingChecksum := nofun
  crcCnt_zero _ := rfl
  scratch_zero := hw.scratch_zero

theorem Des.WellFormed.returnToMagic_of_ne (hs : u.desState ≠ .readingChecksum) : u.returnToMagic.WellFormed mode := by
  have h := hw.returnToMagic u.crcRx
  rwa [← hw.crcCnt_zero hs] at h

theorem Des.WellFormed.advanceMagic (hs : u.desState = .readingMagic) (j : Fin 3) :
    Des.WellFormed mode { u with magicIdx := j } where
  magicIdx_zero h := absurd hs h
  readingBytes h := hw.readingBytes h
  readingChecksum h := hw.readingChecksum h
  crcCnt_zero h := hw.crcCnt_zero h
  scratch_zero := hw.scratch_zero

theorem Des.WellFormed.lock (hs : u.desState = .readingMagic) :
    Des.WellFormed mode { u with desState := .readingLength, magicIdx := 0 } where
  magicIdx_zero _ := rfl
  readingBytes := nofun
  readingChecksum := nofun
  crcCnt_zero _ := hw.crcCnt_zero (by simp [hs])
  scratch_zero := hw.scratch_zero

theorem Des.WellFormed.takeLength (hs : u.desState = .readingLength) (n : Fin 65) :
    Des.WellFormed mode { u with desState := .readingBytes, desLen := n, desCnt := 0,
                                 scratch := Vector.replicate 64 0#8 } where
  magicIdx_zero _ := hw.magicIdx_zero (by simp [hs])
  readingBytes _ := by
    by_cases hn : n = 0
    · exact .inr ⟨hn, rfl⟩
    · exact .inl ⟨Nat.pos_of_ne_zero (Fin.val_ne_zero_iff.mpr hn), Fin.pos_iff_ne_zero.mpr hn⟩
  readingChecksum := nofun
  crcCnt_zero _ := hw.crcCnt_zero (by simp [hs])
  scratch_zero _ _ := Vector.getElem_replicate _

/-- The phantom payload byte of a zero LEN byte: R46 puts `des_cnt` at 0, so the byte goes where the count stands. -/
theorem Des.WellFormed.takePhantom (hm : mode = .consumeOne) (hs : u.desState = .readingBytes) (hl : u.desLen = 0)
    (d : Byte) :
    Des.WellFormed mode { u with desState := .readingChecksum, scratch := u.scratch.set 0 d, desCnt := 1,
                                 crcCnt := 0 } where
  magicIdx_zero _ := hw.magicIdx_zero (by simp [hs])
  readingBytes := nofun
  readingChecksum _ := .inr ⟨hl, rfl, hm⟩
  crcCnt_zero _ := rfl
  scratch_zero := by
    have hc : u.desCnt = 0 := by
      obtain ⟨hpos, -⟩ | ⟨-, hc⟩ := hw.readingBytes hs
      · simp [hl] at hpos
      · exact hc
    exact scratch_set_zero u.scratch d 0 (by decide) fun i _ => hw.scratch_zero i (by simp [hc])

theorem Des.WellFormed.desCnt_lt_desLen (hs : u.desState = .readingBytes) (hl : u.desLen ≠ 0) :
    u.desCnt < u.desLen := by
  obtain ⟨-, hlt⟩ | ⟨h0, -⟩ := hw.readingBytes hs
  · exact hlt
  · exact absurd h0 hl

theorem Des.WellFormed.takeLastPayload (hs : u.desState = .readingBytes) (hl : u.desLen ≠ 0) (d : Byte)
    (hc : u.desCnt.val < 64) (n : Fin 65) (hn : n.val = u.desCnt.val + 1) (hlast : n = u.desLen) :
    Des.WellFormed mode { u with desState := .readingChecksum, scratch := u.scratch.set u.desCnt.val d,
                                 desCnt := n, crcCnt := 0 } where
  magicIdx_zero _ := hw.magicIdx_zero (by simp [hs])
  readingBytes := nofun
  readingChecksum _ := .inl ⟨u.one_le_desLen_iff.mpr hl, hlast⟩
  crcCnt_zero _ := rfl
  scratch_zero i hi := scratch_set_zero _ d _ hc hw.scratch_zero i (hn ▸ hi)

theorem Des.WellFormed.takePayload (hs : u.desState = .readingBytes) (hl : u.desLen ≠ 0) (d : Byte)
    (hc : u.desCnt.val < 64) (n : Fin 65) (hn : n.val = u.desCnt.val + 1) (hmore : n ≠ u.desLen) :
    Des.WellFormed mode { u with scratch := u.scratch.set u.desCnt.val d, desCnt := n } where
  magicIdx_zero := hw.magicIdx_zero
  readingBytes _ := by
    have hle : n ≤ u.desLen := by rw [Fin.le_def, hn]; exact hw.desCnt_lt_desLen hs hl
    exact .inl ⟨u.one_le_desLen_iff.mpr hl, lt_of_le_of_ne hle hmore⟩
  readingChecksum h := absurd (hs.symm.trans h) nofun
  crcCnt_zero := hw.crcCnt_zero
  scratch_zero i hi := scratch_set_zero _ d _ hc hw.scratch_zero i (hn ▸ hi)

theorem Des.WellFormed.takeChecksumByte (hs : u.desState = .readingChecksum) (c : Word) (n : Fin 4) :
    Des.WellFormed mode { u with crcRx := c, crcCnt := n } where
  magicIdx_zero := hw.magicIdx_zero
  readingBytes := hw.readingBytes
  readingChecksum := hw.readingChecksum
  crcCnt_zero h := absurd hs h
  scratch_zero := hw.scratch_zero

/-- A byte that completes keeps R46, whichever of its transitions it takes. -/
theorem Des.WellFormed.consume (d : Byte) (v : Des) (r : Response) (h : u.consume mode d = .done v r) :
    v.WellFormed mode := by
  obtain ⟨hs, -, rfl | ⟨j, -, rfl⟩ | ⟨-, rfl⟩⟩ | ⟨hs, ⟨-, -, rfl⟩ | ⟨-, n, -, rfl⟩⟩ |
    ⟨hs, -, ⟨hm, hl, rfl⟩ | ⟨hl, hc, n, hn, ⟨hlast, rfl⟩ | ⟨hmore, rfl⟩⟩⟩ |
    ⟨hs, ⟨n, -, -, rfl⟩ | ⟨-, -, rfl⟩⟩ := Des.consume_done mode d u v r h
  · exact hw
  · exact hw.advanceMagic hs j
  · exact hw.lock hs
  · exact hw.returnToMagic_of_ne (by simp [hs])
  · exact hw.takeLength hs n
  · exact hw.takePhantom hm hs hl d
  · exact hw.takeLastPayload hs hl d hc n hn hlast
  · exact hw.takePayload hs hl d hc n hn hmore
  · exact hw.takeChecksumByte hs _ n
  · exact hw.returnToMagic _

end

theorem step_keeps_des_wellFormed (s t : State) (hw : s.des.WellFormed Config.zeroLenMode) (h : step s = .next t) :
    t.des.WellFormed Config.zeroLenMode := by
  obtain he | he | ⟨d, r, hd⟩ := step_des s t h
  · rwa [he]
  · rw [he]; exact Des.reset_wellFormed _
  · exact hw.consume d t.des r hd

/-- Settles O34: the SER part and the DES part of R46 are each kept. -/
theorem stepKeepsWellFormed : Obligations.StepKeepsWellFormed :=
  fun s t hw h => ⟨step_keeps_ser_wellFormed s t hw.ser h, step_keeps_des_wellFormed s t hw.des h⟩

/-- Settles O33, from the reset values of SER and DES. -/
theorem resetIsWellFormed : Obligations.ResetIsWellFormed :=
  ⟨⟨Ser.reset_wellFormed, Des.reset_wellFormed _⟩, Ser.reset_holdsFrame, rfl, fun _ => Vector.getElem_replicate _⟩

/-! ## The one place where a command stops -/

/-- A byte has no outcome exactly where it would be stored past the scratch buffer (R46, R49, log 7). -/
theorem Des.consume_eq_illFormed_iff (mode : ZeroLenMode) (d : Byte) (u : Des) :
    u.consume mode d = .illFormed ↔ u.desState = .readingBytes ∧ u.desLen ≠ 0 ∧ u.desCnt = 64 := by
  refine ⟨Des.consume_illFormed mode d u, fun ⟨hs, hl, hc⟩ => ?_⟩
  have hpast : ¬ u.desCnt.val < 64 := by simp [hc]
  simp [Des.consume, hs, hl, Des.readPayload, hpast]

/-- DES_BYTE stops exactly where its byte has no outcome. -/
theorem execDesByte_stops (d : Byte) (s : State) (h : s.des.consume Config.zeroLenMode d = .illFormed) :
    execDesByte d s = .fault .illFormedDes := by
  rw [execDesByte, byteOperand, h, ByteOutcome.apply]

theorem execDesByte_answers (d : Byte) (s : State) (h : s.des.consume Config.zeroLenMode d ≠ .illFormed) :
    ∃ t, execDesByte d s = .next t := by
  rw [execDesByte, byteOperand]
  cases hu : s.des.consume Config.zeroLenMode d with
  | done u r => exact ⟨_, rfl⟩
  | raises f => exact ⟨_, rfl⟩
  | illFormed => exact absurd hu h

theorem execSerEncode_answers (cap : Byte) (s : State) : ∃ t, execSerEncode cap s = .next t := by
  unfold execSerEncode
  split <;> exact ⟨_, rfl⟩

theorem execSerPull_answers (data : Byte) (s : State) : ∃ t, execSerPull data s = .next t := by
  unfold execSerPull
  split <;> exact ⟨_, rfl⟩

/-- Settles O19: of the commands only DES_BYTE can stop, and it stops where its byte has no outcome. -/
theorem onlyAStorePastScratchStopsACommand : Obligations.OnlyAStorePastScratchStopsACommand := by
  refine ⟨fun d s hs hl hc => execDesByte_stops d s ?_, fun i s hi => ?_⟩
  · exact (Des.consume_eq_illFormed_iff _ d _).mpr ⟨hs, s.des.one_le_desLen_iff.mp hl, hc⟩
  cases i with
  | desByte d =>
    refine execDesByte_answers d s fun hu => hi ?_
    obtain ⟨hs, hl, hc⟩ := (Des.consume_eq_illFormed_iff _ d _).mp hu
    exact ⟨⟨d, rfl⟩, hs, s.des.one_le_desLen_iff.mpr hl, hc⟩
  | serEncode cap => exact execSerEncode_answers cap s
  | serPull data => exact execSerPull_answers data s
  | nop _ | crcInit _ | crcByte _ | desReset _ | reserved7 _ | reserved8 _ | reserved9 _ | reservedA _ | reservedB _
  | reservedC _ | reservedD _ | reservedE _ | reservedF _ => exact ⟨_, rfl⟩

end Sys2Proof.Machine
end

section
/-! What a command does rests on its own sub-unit alone: DES is isolated, commands to different sub-units commute, and
some commands are idempotent (spec 20_memory.md R59, R61). -/

namespace Sys2Proof.Machine

/-! ## A command reads and writes its own sub-unit -/

theorem execSerEncode_tooSmall (cap : Byte) (s : State) (hc : capacityOperand cap < Config.frameLen) :
    execSerEncode cap s = .next (s.respond .rspSerTooSmall) := by
  rw [execSerEncode, if_pos hc]

theorem execSerEncode_fits (cap : Byte) (s : State) (hc : ¬ capacityOperand cap < Config.frameLen) :
    execSerEncode cap s = .next ((s.withSer (Ser.load s.recIn)).respond (.rspSerOk 72)) := by
  rw [execSerEncode, if_neg hc]

/-- A command to DES does the same in every state with the same DES. -/
theorem exec_des_local (i : Instr) (s t : State) (hi : subUnit i = some .des) (h : exec i s = .next t) :
    (∃ u r, t = (s.withDes u).respond r ∧
      ∀ s', s'.des = s.des → exec i s' = .next ((s'.withDes u).respond r)) ∨
    (∃ f, t = s.raise f ∧ ∀ s', s'.des = s.des → exec i s' = .next (s'.raise f)) := by
  cases i with
  | desByte d =>
    have again (s' : State) (hs : s'.des = s.des) :
        exec (.desByte d) s' = (s.des.consume Config.zeroLenMode (byteOperand d)).apply s' := by rw [← hs]; rfl
    obtain ⟨u, r, hu, rfl⟩ | ⟨f, hf, rfl⟩ := ByteOutcome.apply_next _ s t h
    · exact .inl ⟨u, r, rfl, fun s' hs => by rw [again s' hs, hu, ByteOutcome.apply]⟩
    · exact .inr ⟨f, rfl, fun s' hs => by rw [again s' hs, hf, ByteOutcome.apply]⟩
  | desReset _ => cases h; exact .inl ⟨_, _, rfl, fun _ _ => rfl⟩
  | _ => cases hi

/-- A command to CRCU does the same in every state with the same CRCU. -/
theorem exec_crcu_local (i : Instr) (s t : State) (hi : subUnit i = some .crcu) (h : exec i s = .next t) :
    ∃ u r, t = (s.withCrcu u).respond r ∧
      ∀ s', s'.crcu = s.crcu → exec i s' = .next ((s'.withCrcu u).respond r) := by
  cases i with
  | crcInit _ => cases h; exact ⟨_, _, rfl, fun _ _ => rfl⟩
  | crcByte d => cases h; exact ⟨_, _, rfl, fun s' hs => by rw [← hs]; rfl⟩
  | _ => cases hi

theorem execSerEncode_local (cap : Byte) (s t : State) (h : execSerEncode cap s = .next t) :
    ∃ u r, t = (s.withSer u).respond r ∧
      ∀ s', s'.ser = s.ser → s'.recIn = s.recIn → execSerEncode cap s' = .next ((s'.withSer u).respond r) := by
  by_cases hc : capacityOperand cap < Config.frameLen
  · cases (execSerEncode_tooSmall cap s hc).symm.trans h
    refine ⟨s.ser, _, rfl, fun s' hs _ => ?_⟩
    rw [← hs]
    exact execSerEncode_tooSmall cap s' hc
  · cases (execSerEncode_fits cap s hc).symm.trans h
    refine ⟨_, _, rfl, fun s' _ hr => ?_⟩
    rw [← hr]
    exact execSerEncode_fits cap s' hc

theorem execSerPull_local (data : Byte) (s t : State) (h : execSerPull data s = .next t) :
    ∃ u r, t = (s.withSer u).respond r ∧
      ∀ s', s'.ser = s.ser → execSerPull data s' = .next ((s'.withSer u).respond r) := by
  unfold execSerPull at h
  split at h
  case isTrue hlt =>
    cases h
    exact ⟨_, _, rfl, fun s' hs => by simp [execSerPull, hs, hlt]⟩
  case isFalse hlt =>
    cases h
    refine ⟨s.ser, _, rfl, fun s' hs => ?_⟩
    rw [← hs] at hlt ⊢
    exact dif_neg hlt

/-- A command to SER does the same in every state with the same SER and the same record on `rec_in`. -/
theorem exec_ser_local (i : Instr) (s t : State) (hi : subUnit i = some .ser) (h : exec i s = .next t) :
    ∃ u r, t = (s.withSer u).respond r ∧
      ∀ s', s'.ser = s.ser → s'.recIn = s.recIn → exec i s' = .next ((s'.withSer u).respond r) := by
  cases i with
  | serEncode cap => exact execSerEncode_local cap s t h
  | serPull data =>
    obtain ⟨u, r, ht, again⟩ := execSerPull_local data s t h
    exact ⟨u, r, ht, fun s' hs _ => again s' hs⟩
  | _ => cases hi

/-! ## DES is isolated -/

theorem HostInput.word?_eq_some {x : HostInput} {cmd : CommandWord} (h : x.word? = some cmd) :
    ∃ r, x = .command cmd r := by
  cases x with
  | command c r => cases h; exact ⟨r, rfl⟩
  | reset => cases h

theorem HostInput.word?_eq_none {x : HostInput} (h : x.word? = none) : x = .reset := by
  cases x with
  | command c r => cases h
  | reset => rfl

/-- A step without an input, as an equation for rewriting (log 2). -/
theorem step_of_no_input (s : State) (hf : s.fault = none) (hp : s.pending = []) : step s = .next s.idle := by
  rw [step, hf, hp]

/-- A step whose next input is the reset event, as an equation for rewriting (R132). -/
theorem step_of_reset (s : State) (rest : List HostInput) (hf : s.fault = none) (hp : s.pending = .reset :: rest) :
    step s = .next (s.withPending rest).assertReset := by
  rw [step, hf, hp]

/-- The result item of the last step (R105), none where it produced no response. -/
def State.item (s : State) : Option ResultItem := s.rsp.bind Response.resultItem

/-- Only DES answers result items. -/
theorem exec_item_eq_none (i : Instr) (s t : State) (hi : subUnit i ≠ some .des) (h : exec i s = .next t) :
    t.item = none := by
  cases i with
  | serEncode cap => obtain rfl | rfl := execSerEncode_next cap s t h <;> rfl
  | serPull data => obtain rfl | ⟨n, b, rfl⟩ := execSerPull_next data s t h <;> rfl
  | desByte _ | desReset _ => exact absurd rfl hi
  | nop _ | crcInit _ | crcByte _ | reserved7 _ | reserved8 _ | reserved9 _ | reservedA _ | reservedB _ | reservedC _
  | reservedD _ | reservedE _ | reservedF _ => cases h; rfl

/-- A command that is not for DES is never stopped. -/
theorem exec_answers_of_not_des (i : Instr) (s : State) (hi : subUnit i ≠ some .des) : ∃ t, exec i s = .next t :=
  onlyAStorePastScratchStopsACommand.2 i s fun ⟨⟨_, hd⟩, _⟩ => hi (hd ▸ rfl)

/-- A command keeps the agreement on DES: a DES command does the same on both sides, any other leaves DES alone. -/
theorem exec_agreeOnDes (i : Instr) (s t s' : State) (ha : s.AgreeOnDes t) (h : exec i s = .next s') :
    ∃ t', exec i t = .next t' ∧ s'.AgreeOnDes t' ∧ s'.item = t'.item := by
  by_cases hi : subUnit i = some .des
  case pos =>
    obtain ⟨u, r, rfl, again⟩ | ⟨f, rfl, again⟩ := exec_des_local i s s' hi h
    · exact ⟨_, again t ha.des.symm, ⟨rfl, ha.fault, ha.words⟩, rfl⟩
    · exact ⟨_, again t ha.des.symm, ⟨ha.des, rfl, ha.words⟩, rfl⟩
  case neg =>
    obtain ⟨t', ht⟩ := exec_answers_of_not_des i t hi
    obtain ⟨-, -, hs, -, hsp, -⟩ := commandsWriteOnlyTheirSubUnit i s s' h
    obtain ⟨-, -, ht', -, htp, -⟩ := commandsWriteOnlyTheirSubUnit i t t' ht
    obtain ⟨hsd, hsf⟩ := hs hi
    obtain ⟨htd, htf⟩ := ht' hi
    refine ⟨t', ht, ⟨?_, ?_, ?_⟩, ?_⟩
    · rw [hsd, htd, ha.des]
    · rw [hsf, htf, ha.fault]
    · rw [hsp, htp, ha.words]
    · rw [exec_item_eq_none i s s' hi h, exec_item_eq_none i t t' hi ht]

theorem step_agreeOnDes (s t s' : State) (ha : s.AgreeOnDes t) (h : step s = .next s') :
    ∃ t', step t = .next t' ∧ s'.AgreeOnDes t' ∧ s'.item = t'.item := by
  obtain ⟨hf, hstep⟩ := step_next s s' h
  have htf : t.fault = none := ha.fault ▸ hf
  have hw := ha.words
  obtain ⟨hp, rfl⟩ | ⟨rest, hp, rfl⟩ | ⟨cmd, r, rest, hp, hx⟩ := hstep
  · rw [hp] at hw
    exact ⟨_, step_of_no_input t htf (List.map_eq_nil_iff.mp hw.symm), ⟨ha.des, ha.fault, ha.words⟩, rfl⟩
  · rw [hp] at hw
    obtain ⟨x, rest', htp, hx, hrest⟩ := List.map_eq_cons_iff.mp hw.symm
    cases HostInput.word?_eq_none hx
    exact ⟨_, step_of_reset t rest' htf htp, ⟨rfl, ha.fault, hrest.symm⟩, rfl⟩
  · rw [hp] at hw
    obtain ⟨x, rest', htp, hx', hrest⟩ := List.map_eq_cons_iff.mp hw.symm
    obtain ⟨r', rfl⟩ := HostInput.word?_eq_some hx'
    rw [step_of_command t cmd r' rest' htf htp]
    exact exec_agreeOnDes _ (s.present r rest) (t.present r' rest') s' ⟨ha.des, ha.fault, hrest.symm⟩ hx

/-- Settles O41, by induction on the number of steps: a step keeps the agreement and its result item. -/
theorem deserializerIsIsolated : Obligations.DeserializerIsIsolated := by
  intro k
  induction k with
  | zero => intro s t s' rs ha h; cases h; exact ⟨t, [], rfl, ha, rfl⟩
  | succ k ih =>
    intro s t s' rs ha h
    obtain ⟨s₁, qs, hs, hrun, rfl⟩ := run_succ_inv k s s' rs h
    obtain ⟨t₁, ht, ha₁, hitem⟩ := step_agreeOnDes s t s₁ ha hs
    obtain ⟨t', qs', hrun', ha', hitems⟩ := ih s₁ t₁ s' qs ha₁ hrun
    refine ⟨t', t₁.rsp :: qs', run_succ k t t₁ t' qs' ht hrun', ha', ?_⟩
    unfold State.item at hitem
    rw [List.filterMap_cons, List.filterMap_cons, hitem, hitems]

/-! ## Commands to different sub-units commute -/

theorem opField_append (op : BitVec 4) (d : Byte) : opField (op ++ d) = op :=
  BitVec.extractLsb'_append_eq_left

theorem dataField_append (op : BitVec 4) (d : Byte) : dataField (op ++ d) = d :=
  BitVec.extractLsb'_append_eq_right

/-- The word of a command is decoded to that command (R69, R70). -/
@[simp] theorem decodeWord_encode (i : Instr) : decodeWord (encode i) = i := by
  cases i <;> simp [decodeWord, encode, opcode, Instr.data, opField_append, dataField_append]

/-- The registers a sub-unit holds (R22). -/
def SubUnit.Registers : SubUnit → Type
  | .crcu => Crcu
  | .ser => Ser
  | .des => Des

/-- The registers of one sub-unit in a state. -/
def State.unit (s : State) : (m : SubUnit) → m.Registers
  | .crcu => s.crcu
  | .ser => s.ser
  | .des => s.des

/-- The state with the registers of one sub-unit written. -/
def State.withUnit (s : State) : (m : SubUnit) → m.Registers → State
  | .crcu, u => s.withCrcu u
  | .ser, u => s.withSer u
  | .des, u => s.withDes u

section
variable (s : State) (m n : SubUnit) (u : m.Registers)

@[simp] theorem State.withUnit_fault : (s.withUnit m u).fault = s.fault := by cases m <;> rfl

@[simp] theorem State.withUnit_pending : (s.withUnit m u).pending = s.pending := by cases m <;> rfl

@[simp] theorem State.withUnit_recIn : (s.withUnit m u).recIn = s.recIn := by cases m <;> rfl

@[simp] theorem State.unit_respond (r : Response) : (s.respond r).unit m = s.unit m := by cases m <;> rfl

@[simp] theorem State.unit_present (r : Record) (rest : List HostInput) : (s.present r rest).unit m = s.unit m := by
  cases m <;> rfl

theorem State.withUnit_present (r : Record) (rest : List HostInput) :
    (s.present r rest).withUnit m u = (s.withUnit m u).present r rest := by
  cases m <;> rfl

theorem State.withUnit_respond (r : Response) : (s.respond r).withUnit m u = (s.withUnit m u).respond r := by
  cases m <;> rfl

theorem State.unit_withUnit_of_ne (h : m ≠ n) : (s.withUnit m u).unit n = s.unit n := by
  cases m <;> cases n <;> simp [State.unit, State.withUnit] at h ⊢ <;> rfl

theorem State.withUnit_comm (h : m ≠ n) (v : n.Registers) :
    (s.withUnit m u).withUnit n v = (s.withUnit n v).withUnit m u := by
  cases m <;> cases n <;>
    simp [State.withUnit, State.withCrcu, State.withSer, State.withDes] at h ⊢

end

/-- A command that records no fault writes registers of its own sub-unit and a response, and writes and answers the
same in every state with the same registers there and the same record on `rec_in`. -/
theorem exec_unit_local (i : Instr) (m : SubUnit) (s t : State) (hi : subUnit i = some m) (h : exec i s = .next t)
    (hf : t.fault = none) :
    ∃ u r, t = (s.withUnit m u).respond r ∧
      ∀ s', s'.unit m = s.unit m → s'.recIn = s.recIn → exec i s' = .next ((s'.withUnit m u).respond r) := by
  cases m with
  | crcu =>
    obtain ⟨u, r, ht, again⟩ := exec_crcu_local i s t hi h
    exact ⟨u, r, ht, fun s' hs _ => again s' hs⟩
  | ser => exact exec_ser_local i s t hi h
  | des =>
    obtain ⟨u, r, ht, again⟩ | ⟨f, rfl, -⟩ := exec_des_local i s t hi h
    · exact ⟨u, r, ht, fun s' hs _ => again s' hs⟩
    · cases hf

/-- A step whose next input is the word of a command runs that command (R21, R43). -/
theorem step_of_instr (s : State) (i : Instr) (r : Record) (rest : List HostInput) (hf : s.fault = none)
    (hp : s.pending = .command (encode i) r :: rest) : step s = exec i (s.present r rest) := by
  rw [step_of_command s _ r rest hf hp, decodeWord_encode]

theorem exec_pending (i : Instr) (s t : State) (h : exec i s = .next t) : t.pending = s.pending :=
  have ⟨_, _, _, _, hp, _⟩ := commandsWriteOnlyTheirSubUnit i s t h
  hp

/-- A run of two commands is the two commands, the second where the first leaves no fault. -/
theorem run_two_commands_iff (s t : State) (i j : Instr) (ri rj : Record) (rest : List HostInput)
    (x y : Option Response) :
    run 2 (s.withPending (.command (encode i) ri :: .command (encode j) rj :: rest)) = .next (t, [x, y]) ↔
      ∃ t₁, s.fault = none ∧ exec i (s.present ri (.command (encode j) rj :: rest)) = .next t₁ ∧ t₁.rsp = x ∧
        t₁.fault = none ∧ exec j (t₁.present rj rest) = .next t ∧ t.rsp = y := by
  constructor
  · intro h
    obtain ⟨t₁, qs, h₁, hrun, hx⟩ := run_succ_inv 1 _ t _ h
    obtain ⟨t₂, ps, h₂, hend, rfl⟩ := run_succ_inv 0 t₁ t qs hrun
    cases hend
    cases hx
    obtain ⟨hf, -⟩ := step_next _ t₁ h₁
    obtain ⟨hf₁, -⟩ := step_next t₁ t h₂
    rw [step_of_instr _ i ri _ hf rfl] at h₁
    rw [step_of_instr t₁ j rj rest hf₁ (exec_pending i _ t₁ h₁)] at h₂
    exact ⟨t₁, hf, h₁, rfl, hf₁, h₂, rfl⟩
  · rintro ⟨t₁, hf, h₁, rfl, hf₁, h₂, rfl⟩
    refine run_succ 1 _ t₁ t _ ?_ (run_succ 0 t₁ t t [] ?_ rfl)
    · rw [step_of_instr (s.withPending _) i ri _ ((s.withPending_fault _).trans hf) rfl]; exact h₁
    · exact (step_of_instr t₁ j rj rest hf₁ (exec_pending i _ t₁ h₁)).trans h₂

/-- Settles O38: each command finds the registers of its sub-unit as it would in the other order, and the two writes
to different sub-units commute. -/
theorem commandsToDifferentSubUnitsCommute : Obligations.CommandsToDifferentSubUnitsCommute := by
  intro s t i j ri rj rest x y hi hj hij hrun hf
  obtain ⟨m, hm⟩ := Option.ne_none_iff_exists'.mp hi
  obtain ⟨n, hn⟩ := Option.ne_none_iff_exists'.mp hj
  have hmn : m ≠ n := fun h => hij (by rw [hm, hn, h])
  obtain ⟨t₁, hf₀, h₁, rfl, hf₁, h₂, rfl⟩ := (run_two_commands_iff s t i j ri rj rest x y).mp hrun
  obtain ⟨u, a, rfl, again_i⟩ := exec_unit_local i m _ t₁ hm h₁ hf₁
  obtain ⟨v, b, rfl, again_j⟩ := exec_unit_local j n _ t hn h₂ hf
  have first_j := again_j (s.present rj (.command (encode i) ri :: rest))
    (by simp [State.unit_withUnit_of_ne, hmn]) rfl
  have then_i := again_i ((((s.present rj (.command (encode i) ri :: rest)).withUnit n v).respond b).present ri rest)
    (by simp [State.unit_withUnit_of_ne, hmn.symm]) rfl
  refine ⟨_, (run_two_commands_iff s _ j i rj ri rest _ _).mpr
    ⟨_, hf₀, first_j, rfl, by simpa using hf₀, then_i, rfl⟩, ?_⟩
  simp [State.withUnit_present, State.withUnit_respond, State.withUnit_comm _ m n u hmn v]

/-! ## Idempotent commands -/

/-- A second SER_ENCODE of the same record takes the same branch, which rests on the capacity alone (R87). -/
theorem execSerEncode_idempotent (cap : Byte) (s t : State) (h : execSerEncode cap s = .next t) :
    execSerEncode cap t = .next t := by
  by_cases hc : capacityOperand cap < Config.frameLen
  · cases (execSerEncode_tooSmall cap s hc).symm.trans h
    exact execSerEncode_tooSmall cap _ hc
  · cases (execSerEncode_fits cap s hc).symm.trans h
    exact execSerEncode_fits cap _ hc

/-- Settles O46: what these commands write depends on nothing that they write. -/
theorem idempotentCommands : Obligations.IdempotentCommands := by
  intro i s t data hi h
  simp only [List.mem_cons, List.not_mem_nil, or_false] at hi
  obtain rfl | rfl | rfl | rfl := hi
  case inr.inr.inr => exact execSerEncode_idempotent data s t h
  all_goals cases h; rfl

end Sys2Proof.Machine
end

section
/-! Command words and commands determine each other, as words and in the byte form (spec 30_encoding.md R69 to R72). -/

namespace Sys2Proof.Machine

/-! ## Words -/

theorem opField_append_dataField (w : CommandWord) : opField w ++ dataField w = w :=
  (BitVec.extractLsb'_append_extractLsb'_eq_extractLsb' rfl).trans BitVec.extractLsb'_eq_self

theorem opcode_decodeWord (w : CommandWord) : opcode (decodeWord w) = opField w := by
  apply BitVec.eq_of_toNat_eq
  unfold decodeWord
  split
  case h_16 =>
    have hlt := (opField w).isLt
    simp only [imp_false, opcode, BitVec.reduceToNat] at *
    omega
  all_goals simp_all only [opcode, BitVec.reduceToNat]

theorem data_decodeWord (w : CommandWord) : (decodeWord w).data = dataField w := by
  unfold decodeWord
  split <;> rfl

/-- The command of a word is encoded to that word (R69, R70, R72). -/
@[simp] theorem encode_decodeWord (w : CommandWord) : encode (decodeWord w) = w := by
  rw [encode, opcode_decodeWord, data_decodeWord, opField_append_dataField]

/-- Settles O30: each word written out is, by R69, the word of the command named. -/
theorem writtenOutWordsDecode : Obligations.WrittenOutWordsDecode :=
  ⟨decodeWord_encode (.crcByte 0x31), decodeWord_encode (.serEncode 72), decodeWord_encode (.desByte 0x7D),
    decodeWord_encode (.nop 0), decodeWord_encode (.crcInit 0), decodeWord_encode (.serPull 0),
    decodeWord_encode (.desReset 0), decodeWord_encode (.reserved7 0xFF), decodeWord_encode (.reservedF 0xFF)⟩

/-! ## The byte form of log 8 -/

/-- The two bytes of a word, put together, are the word with four zeros on top. -/
theorem opField_append_dataField_eq_setWidth (w : CommandWord) :
    ((opField w).setWidth 8 ++ dataField w : BitVec 16) = w.setWidth 16 := by
  conv_rhs => rw [← opField_append_dataField w, BitVec.setWidth_append]
  rfl

theorem setWidth_lt_bound (w : CommandWord) : w.setWidth 16 < 0x1000#16 :=
  (BitVec.toNat_setWidth_of_le (by decide)).trans_lt w.isLt

/-- Below the bound of `decode` the four bits above the word are zeros, and nothing is lost in the word. -/
theorem setWidth_setWidth_of_lt_bound (x : BitVec 16) (h : x < 0x1000#16) : (x.setWidth 12).setWidth 16 = x := by
  bv_omega

theorem decode_encodeBytes_append (i : Instr) (rest : List Byte) : decode (encodeBytes i ++ rest) = .ok (i, rest) := by
  rw [encodeBytes, List.cons_append, List.cons_append, List.nil_append, decode,
    opField_append_dataField_eq_setWidth, if_pos (setWidth_lt_bound _),
    BitVec.setWidth_setWidth_of_le _ (by decide), BitVec.setWidth_eq, decodeWord_encode]

theorem eq_encodeBytes_append_of_decode (bytes rest : List Byte) (i : Instr) (h : decode bytes = .ok (i, rest)) :
    bytes = encodeBytes i ++ rest := by
  unfold decode at h
  split at h
  case h_2 => cases h
  case h_1 lo hi tail =>
    split at h
    case isFalse => cases h
    case isTrue hlt =>
      cases h
      have same := (opField_append_dataField_eq_setWidth _).trans (setWidth_setWidth_of_lt_bound _ hlt)
      have hhi := congrArg (BitVec.extractLsb' 8 8) same
      have hlo := congrArg (BitVec.setWidth 8) same
      rw [BitVec.extractLsb'_append_eq_left, BitVec.extractLsb'_append_eq_left] at hhi
      rw [BitVec.setWidth_append_eq_right, BitVec.setWidth_append_eq_right] at hlo
      rw [encodeBytes, encode_decodeWord, hhi, hlo, List.cons_append, List.cons_append, List.nil_append]

/-- Settles O31, from the two round trips of words and the two of the byte form. -/
theorem decodeAndEncodeAgree : Obligations.DecodeAndEncodeAgree :=
  ⟨decodeWord_encode, encode_decodeWord, decode_encodeBytes_append, eq_encodeBytes_append_of_decode⟩

end Sys2Proof.Machine
end

section
/-! A frame attempt from the LEN byte to the last checksum byte (spec 42_deserializer.md R96 to R103). -/

namespace Sys2Proof.Machine

/-! ## The codec: unpacking a payload and packing it again gives the payload (R84, R103) -/

/-- Four bytes of a buffer, taken as one value and split again, are the four bytes. -/
theorem bytesBe32_be32At_toList (S : Vector Byte 64) (off : Nat) (h : off + 4 ≤ 64) :
    (bytesBe32 (be32At S off h)).toList = (S.toList.drop off).take 4 := by
  rw [be32At, bytesBe32_be32]
  apply List.ext_getElem
  · simp; omega
  · intro k hk _
    have hk4 : k < 4 := by simpa using hk
    match k, hk4 with
    | 0, _ | 1, _ | 2, _ | 3, _ => simp

theorem toList_ofFn_getElem (S : Vector Byte 64) :
    (Vector.ofFn fun i : Fin 16 => S[i.val]).toList = S.toList.take 16 := by
  apply List.ext_getElem <;> simp

theorem pack_unpackRecord (S : Vector Byte 64) : pack (unpackRecord S) = S := by
  apply Vector.toList_inj.mp
  rw [pack_toList]
  simp only [unpackRecord, bytesBe32_be32At_toList, toList_ofFn_getElem, ← List.take_add]
  exact List.take_of_length_le (by simp)

/-! ## A payload in the scratch buffer -/

/-- The bytes of a payload followed by zeros: what `scratch` holds while they are received (R46). -/
def padded (p : List Byte) : Vector Byte 64 := Vector.ofFn fun i => p.getD i 0#8

theorem padded_nil : padded [] = Vector.replicate 64 0#8 := by
  apply Vector.ext
  simp [padded]

theorem padded_toList (p : List Byte) (h : p.length ≤ 64) :
    (padded p).toList = p ++ List.replicate (64 - p.length) 0x00#8 := by
  apply List.ext_getElem
  · simp; omega
  · intro i _ _
    rcases Nat.lt_or_ge i p.length with hi | hi <;> simp [padded, hi]

theorem take_padded (p : List Byte) (h : p.length ≤ 64) : (padded p).toList.take p.length = p := by
  rw [padded_toList p h, List.take_left]

/-- A byte stored behind a payload of fewer than 64 bytes makes it longer by that byte. -/
theorem padded_set (p : List Byte) (d : Byte) (h : p.length < 64) :
    (padded p).set p.length d = padded (p ++ [d]) := by
  apply Vector.ext
  intro i hi
  rw [Vector.getElem_set]
  rcases lt_trichotomy i p.length with hlt | rfl | hgt
  · simp [padded, hlt, hlt.ne', List.getElem?_append_left hlt]
  · simp [padded]
  · have hlen : (p ++ [d]).length ≤ i := by simpa using hgt
    simp [padded, hgt.ne, List.getElem?_eq_none hgt.le, List.getElem?_eq_none hlen]

/-! ## The LEN byte and the payload bytes -/

section
variable (mode : ZeroLenMode) (u : Des)

theorem Des.consume_length (n : Fin 65) (hs : u.desState = .readingLength) :
    u.consume mode (BitVec.ofNat 8 n) =
      .done { u with desState := .readingBytes, desLen := n, desCnt := 0, scratch := padded [] } .rspNone := by
  have hn : (BitVec.ofNat 8 n).toNat = n := Nat.mod_eq_of_lt (by omega)
  simp [Des.consume, hs, Des.readLength, hn, padded_nil, Nat.le_of_lt_succ]

/-- A payload byte that is not the last one expected (R97). -/
theorem Des.consume_payload_more (p : List Byte) (d : Byte) (n : Fin 65) (hs : u.desState = .readingBytes)
    (hp : u.scratch = padded p) (hc : u.desCnt.val = p.length) (hn : n.val = p.length + 1) (hl : n < u.desLen) :
    u.consume mode d = .done { u with scratch := padded (p ++ [d]), desCnt := n } .rspNone := by
  have hlt : p.length < 64 := by omega
  have hne : ¬ u.desLen.val = 0 := by omega
  have hcnt : n = ⟨p.length + 1, by omega⟩ := Fin.ext hn
  have hmore : (⟨p.length + 1, by omega⟩ : Fin 65) ≠ u.desLen := hcnt ▸ hl.ne
  simp [Des.consume, hs, hne, Des.readPayload, hc, hlt, hmore, hp, padded_set, hcnt]

/-- The payload byte that brings the count to `des_len` (R97). -/
theorem Des.consume_payload_last (p : List Byte) (d : Byte) (hs : u.desState = .readingBytes)
    (hp : u.scratch = padded p) (hc : u.desCnt.val = p.length) (hl : u.desLen.val = p.length + 1) :
    u.consume mode d =
      .done { u with desState := .readingChecksum, scratch := padded (p ++ [d]), desCnt := u.desLen, crcCnt := 0 }
        .rspNone := by
  have hlt : p.length < 64 := by omega
  have hlen : u.desLen = ⟨p.length + 1, by omega⟩ := Fin.ext hl
  simp [Des.consume, hs, Des.readPayload, hc, hlt, hp, padded_set, hlen]

/-- The rest of a payload, from its next byte `d` on, when the bytes `p` of it are taken. -/
theorem Des.feed_payload (p q : List Byte) (d : Byte) (hs : u.desState = .readingBytes)
    (hp : u.scratch = padded p) (hc : u.desCnt.val = p.length) (hl : u.desLen.val = p.length + (q.length + 1)) :
    Des.feed mode (d :: q) u =
      some ({ u with desState := .readingChecksum, scratch := padded (p ++ d :: q), desCnt := u.desLen, crcCnt := 0 },
        List.replicate (q.length + 1) .rspNone) := by
  induction q generalizing u p d with
  | nil => exact Des.feed_cons _ d _ u _ _ _ _ (u.consume_payload_last mode p d hs hp hc hl) rfl
  | cons e q ih =>
    rw [List.length_cons] at hl
    have hn : p.length + 1 < 65 := by omega
    have first := u.consume_payload_more mode p d ⟨p.length + 1, hn⟩ hs hp hc rfl
      (show p.length + 1 < u.desLen.val by omega)
    have others := ih { u with scratch := padded (p ++ [d]), desCnt := ⟨p.length + 1, hn⟩ } (p ++ [d]) e
      hs rfl (by simp) (by simp; omega)
    rw [List.append_assoc] at others
    exact Des.feed_cons _ d _ u _ _ _ _ first others

end

/-! ## The checksum bytes -/

/-- The first three checksum bytes (R99). -/
theorem Des.consume_checksum_more (mode : ZeroLenMode) (u : Des) (d : Byte) (n : Fin 4)
    (hs : u.desState = .readingChecksum) (hn : n.val = u.crcCnt.val + 1) :
    u.consume mode d = .done { u with crcRx := shiftInByte u.crcRx d, crcCnt := n } .rspNone := by
  have hlt : u.crcCnt.val < 3 := by omega
  have hcnt : n = ⟨u.crcCnt.val + 1, by omega⟩ := Fin.ext hn
  simp [Des.consume, hs, Des.readChecksum, hlt, hcnt]

/-- The fourth checksum byte (R99, R100). -/
theorem Des.consume_checksum_last (mode : ZeroLenMode) (u : Des) (d : Byte) (hs : u.desState = .readingChecksum)
    (hc : u.crcCnt = 3) :
    u.consume mode d = .done { u.returnToMagic with crcRx := shiftInByte u.crcRx d, crcCnt := 0 }
      (u.verdict (shiftInByte u.crcRx d)) := by
  simp [Des.consume, hs, Des.readChecksum, hc]

/-- Four bytes shifted in push out all that was there (R99). -/
theorem shiftInByte_four (x : Word) (a b c d : Byte) :
    shiftInByte (shiftInByte (shiftInByte (shiftInByte x a) b) c) d = be32 #v[a, b, c, d] := by
  have assembled : (a ++ b ++ c ++ d : Word) =
      a.setWidth 32 <<< 24 ||| b.setWidth 32 <<< 16 ||| c.setWidth 32 <<< 8 ||| d.setWidth 32 := by
    rw [← BitVec.setWidth_eq (a ++ b ++ c ++ d), BitVec.setWidth_append_append_append_eq_shiftLeft_setWidth_or]
  simp [be32, assembled, shiftInByte, BitVec.shiftLeft_or_distrib, ← BitVec.shiftLeft_add]

/-- The four checksum bytes, from the first one on: the attempt ends with its verdict. -/
theorem Des.feed_checksum (mode : ZeroLenMode) (u : Des) (c : Vector Byte 4) (hs : u.desState = .readingChecksum)
    (hc : u.crcCnt = 0) :
    Des.feed mode c.toList u =
      some ({ u.returnToMagic with crcRx := be32 c, crcCnt := 0 },
        [.rspNone, .rspNone, .rspNone, u.verdict (be32 c)]) := by
  match c with
  | ⟨⟨[b₀, b₁, b₂, b₃]⟩, _⟩ =>
  refine Des.feed_cons _ b₀ _ u _ _ _ _ (u.consume_checksum_more mode b₀ 1 hs (by simp [hc])) ?_
  refine Des.feed_cons _ b₁ _ _ _ _ _ _ (Des.consume_checksum_more mode _ b₁ 2 hs rfl) ?_
  refine Des.feed_cons _ b₂ _ _ _ _ _ _ (Des.consume_checksum_more mode _ b₂ 3 hs rfl) ?_
  have last := Des.consume_checksum_last mode
    { u with crcRx := shiftInByte (shiftInByte (shiftInByte u.crcRx b₀) b₁) b₂, crcCnt := 3 } b₃ hs rfl
  rw [shiftInByte_four u.crcRx b₀ b₁ b₂ b₃] at last
  exact Des.feed_cons _ b₃ _ _ _ _ _ _ last rfl

/-! ## The whole attempt -/

/-- DES after a frame attempt of the payload `p`, of length `n`, and the checksum bytes `c` (R100). -/
def Des.afterAttempt (n : Fin 65) (p : List Byte) (c : Vector Byte 4) : Des :=
  { desState := .readingMagic, magicIdx := 0, desLen := n, desCnt := n, scratch := padded p, crcRx := be32 c,
    crcCnt := 0 }

theorem Des.afterAttempt_payloadBytes (n : Fin 65) (p : List Byte) (c : Vector Byte 4) (hn : n.val = p.length) :
    (Des.afterAttempt n p c).payloadBytes = p := by
  rw [Des.payloadBytes, Des.afterAttempt, hn, take_padded p (by omega)]

theorem Des.feed_frameAttempt (mode : ZeroLenMode) (u : Des) (n : Fin 65) (p : List Byte) (c : Vector Byte 4)
    (hs : u.desState = .readingLength) (hn : n.val = p.length) (hp : p ≠ []) :
    Des.feed mode (BitVec.ofNat 8 n :: (p ++ c.toList)) u =
      some (Des.afterAttempt n p c,
        List.replicate (p.length + 4) .rspNone ++ [(Des.afterAttempt n p c).verdict (be32 c)]) := by
  obtain ⟨d, q, rfl⟩ := List.exists_cons_of_ne_nil hp
  have payload := Des.feed_payload mode
    { u with desState := .readingBytes, desLen := n, desCnt := 0, scratch := padded [] } [] q d rfl rfl rfl
    (by simpa using hn)
  have checksum := Des.feed_checksum mode
    { u with desState := .readingChecksum, desLen := n, desCnt := n, scratch := padded (d :: q), crcCnt := 0 } c rfl rfl
  have both := Des.feed_append mode _ _ _ _ _ _ _ payload checksum
  have whole := Des.feed_cons mode _ _ u _ _ _ _ (u.consume_length mode n hs) both
  have responses : List.replicate ((d :: q).length + 4) Response.rspNone =
      [.rspNone] ++ List.replicate (q.length + 1) .rspNone ++ [.rspNone, .rspNone, .rspNone] := by
    rw [show (d :: q).length + 4 = 1 + (q.length + 1) + 3 by simp; omega, List.replicate_add, List.replicate_add]
    rfl
  rw [responses, List.append_assoc, List.append_assoc]
  exact whole

/-! ## Bytes given to the machine -/

/-- What a byte stream that is not stopped gives, from its first byte on. -/
theorem Des.feed_cons_inv (mode : ZeroLenMode) (d : Byte) (ds : List Byte) (u w : Des) (qs : List Response)
    (h : Des.feed mode (d :: ds) u = some (w, qs)) :
    ∃ v r rs, u.consume mode d = .done v r ∧ Des.feed mode ds v = some (w, rs) ∧ qs = r :: rs := by
  rw [Des.feed] at h
  split at h
  case h_1 v r hd =>
    simp only [Option.map_eq_some_iff, Prod.mk.injEq] at h
    obtain ⟨⟨w', rs⟩, hf, rfl, rfl⟩ := h
    exact ⟨v, r, rs, hd, hf, rfl⟩
  case h_2 => cases h
  case h_3 => cases h

/-- The commands DES_BYTE of a stream run on the machine as the stream runs on DES, and nothing else changes. -/
theorem run_desBytes (ds : List Byte) (s : State) (inputs rest : List HostInput) (v : Des) (rs : List Response)
    (hf : s.fault = none) (hp : s.pending = inputs ++ rest) (hi : givesCommands inputs (ds.map .desByte))
    (hd : Des.feed Config.zeroLenMode ds s.des = some (v, rs)) :
    ∃ t, run ds.length s = .next (t, rs.map some) ∧ t.des = v ∧ t.crcu = s.crcu ∧ t.ser = s.ser ∧
      t.fault = none ∧ t.pending = rest := by
  induction ds generalizing s inputs rs with
  | nil =>
    cases hd
    cases givesCommands_nil inputs hi
    exact ⟨s, rfl, rfl, rfl, rfl, hf, hp⟩
  | cons d ds ih =>
    obtain ⟨r, tail, rfl, htail⟩ := givesCommands_cons inputs _ _ hi
    obtain ⟨u, a, qs, hu, hfeed, rfl⟩ := Des.feed_cons_inv _ d ds _ v _ hd
    have first : step s = .next (((s.present r (tail ++ rest)).withDes u).respond a) := by
      rw [step_of_instr s _ r (tail ++ rest) hf hp, exec, execDesByte, byteOperand, State.present_des, hu,
        ByteOutcome.apply]
    obtain ⟨t, hrun, ht⟩ := ih (((s.present r (tail ++ rest)).withDes u).respond a) tail qs hf rfl htail hfeed
    exact ⟨t, run_succ _ s _ t _ first hrun, ht⟩

/-- Settles O49: the bytes run on DES as one frame attempt, and its verdict is the last response. -/
theorem frameAttemptYieldsOneResult : Obligations.FrameAttemptYieldsOneResult := by
  intro s inputs rest p c hpos hle hf hs hp hi
  obtain ⟨n, hn⟩ : ∃ n : Fin 65, n.val = p.length := ⟨⟨p.length, by omega⟩, rfl⟩
  have hne : p ≠ [] := List.ne_nil_of_length_pos hpos
  have feed := Des.feed_frameAttempt Config.zeroLenMode s.des n p c hs hn hne
  rw [hn] at feed
  obtain ⟨t, hrun, hdes, hcrcu, hser, hfault, hpend⟩ := run_desBytes _ s inputs rest _ _ hf hp hi feed
  refine ⟨t, (Des.afterAttempt n p c).verdict (be32 c), n, padded p, ?_, hn, padded_toList p hle, hdes, hcrcu, hser,
    hfault, hpend, ?_⟩
  · simpa using hrun
  have hbytes := Des.afterAttempt_payloadBytes n p c hn
  obtain ⟨hc, hl, hv⟩ | ⟨hc, hl, hv⟩ | ⟨hc, hv⟩ := Des.verdict_cases (be32 c) (Des.afterAttempt n p c)
  all_goals rw [hbytes] at hc; rw [hv]
  · have hl64 : p.length = 64 := hn.symm.trans (congrArg Fin.val hl)
    refine ⟨fun h => absurd hc h, fun _ h => absurd hl64 h.ne, fun _ _ => ⟨_, rfl, ?_⟩⟩
    rw [pack_unpackRecord, Des.afterAttempt, padded_toList p hle, hl64]
    exact List.append_nil p
  · exact ⟨fun h => absurd hc h, fun _ _ => rfl, fun _ h => absurd (hn.trans h) hl.ne⟩
  · exact ⟨fun _ => rfl, fun h => absurd h hc, fun h => absurd h hc⟩

end Sys2Proof.Machine
end

section
/-! What the assembly notation writes (spec 30_encoding.md R73, R74). -/

namespace Sys2Proof.Machine

/-! ## The words of written commands -/

/-- The command a written command names, with 0 for an ignored data byte (R73, R111). -/
def namedCommand : AsmCommand → Instr
  | .nop => .nop 0
  | .crcInit => .crcInit 0
  | .crcByte d => .crcByte (BitVec.ofNat 8 d)
  | .serEncode cap => .serEncode (BitVec.ofNat 8 cap)
  | .serPull => .serPull 0
  | .desByte d => .desByte (BitVec.ofNat 8 d)
  | .desReset => .desReset 0
  | .word w => decodeWord (BitVec.ofNat 12 w)

/-- An operand that passes the check of R73, put below an opcode, is its data byte. -/
theorem append_zero_or_ofNat (op : BitVec 4) (d : Nat) (hd : d ≤ 255) :
    (op ++ 0#8 ||| BitVec.ofNat 12 d : CommandWord) = op ++ BitVec.ofNat 8 d := by
  have operand : BitVec.ofNat 12 d = (0#4 ++ BitVec.ofNat 8 d : CommandWord) := by
    apply BitVec.eq_of_toNat_eq
    simp only [BitVec.toNat_ofNat, BitVec.toNat_append, Nat.zero_mod, Nat.zero_shiftLeft, Nat.zero_or]
    omega
  rw [operand, BitVec.or_append, BitVec.or_zero, BitVec.zero_or]

/-- A written command that passes the check of R73 has the word of the command it names. -/
theorem commandWord_eq_encode (c : AsmCommand) (h : c.wf = true) : commandWord c = encode (namedCommand c) := by
  cases c with
  | crcByte d => exact append_zero_or_ofNat 0x2#4 d (of_decide_eq_true h)
  | serEncode cap => exact append_zero_or_ofNat 0x3#4 cap (of_decide_eq_true h)
  | desByte d => exact append_zero_or_ofNat 0x5#4 d (of_decide_eq_true h)
  | word w => exact (encode_decodeWord _).symm
  | nop | crcInit | serPull | desReset => rfl

theorem decodeWord_commandWord (c : AsmCommand) (h : c.wf = true) : decodeWord (commandWord c) = namedCommand c := by
  rw [commandWord_eq_encode c h, decodeWord_encode]

/-- A mnemonic names a command with 0 in an ignored data byte; only `.word` can give another (R111). -/
theorem namedCommand_canonical (c : AsmCommand) (h : ∀ w, c ≠ .word w) : (namedCommand c).canonical = true := by
  cases c with
  | word w => exact absurd rfl (h w)
  | _ => rfl

/-- A data byte written as a number passes the check of R73 and names itself. -/
theorem decodeWord_commandWord_toNat (d : Byte) :
    decodeWord (commandWord (.crcByte d.toNat)) = .crcByte d ∧
    decodeWord (commandWord (.serEncode d.toNat)) = .serEncode d ∧
    decodeWord (commandWord (.desByte d.toNat)) = .desByte d := by
  have legal : decide (d.toNat ≤ 255) = true := decide_eq_true (Nat.le_of_lt_succ d.isLt)
  have operand : BitVec.ofNat 8 d.toNat = d := BitVec.ofNat_toNat 8 d
  refine ⟨?_, ?_, ?_⟩
  · rw [decodeWord_commandWord (.crcByte d.toNat) legal, namedCommand, operand]
  · rw [decodeWord_commandWord (.serEncode d.toNat) legal, namedCommand, operand]
  · rw [decodeWord_commandWord (.desByte d.toNat) legal, namedCommand, operand]

/-! ## The words of programs -/

theorem assemble_of_wf (ls : List AsmLine) (h : ∀ l ∈ ls, l.wf = true) :
    assemble ls = some (ls.flatMap fun l => (expandLine l).map commandWord) :=
  (assemble_eq_some_iff ls _).mpr ⟨h, rfl⟩

theorem assemble_line (l : AsmLine) (h : l.wf = true) : assemble [l] = some ((expandLine l).map commandWord) := by
  rw [assemble_of_wf [l] (by simpa using h), List.flatMap_singleton]

/-- A line that fails the check of R73 makes its program an assembly error. -/
theorem assemble_eq_none (ls : List AsmLine) (h : ∃ l ∈ ls, l.wf = false) : assemble ls = none := by
  obtain ⟨l, hl, hbad⟩ := h
  refine Option.eq_none_iff_forall_ne_some.mpr fun ws hws => ?_
  obtain ⟨hwf, -⟩ := (assemble_eq_some_iff ls ws).mp hws
  exact absurd (hwf l hl) (by simp [hbad])

theorem assemble_append (ls ms : List AsmLine) (ws vs : List CommandWord) (hl : assemble ls = some ws)
    (hm : assemble ms = some vs) : assemble (ls ++ ms) = some (ws ++ vs) := by
  rw [assemble_eq_some_iff] at *
  obtain ⟨hlwf, rfl⟩ := hl
  obtain ⟨hmwf, rfl⟩ := hm
  refine ⟨fun l hmem => ?_, List.flatMap_append.symm⟩
  obtain h | h := List.mem_append.mp hmem
  · exact hlwf l h
  · exact hmwf l h

/-- Two lines assemble as one line does whose expansion is theirs (R74). -/
theorem assemble_pair (l a b : AsmLine) (hl : l.wf = true) (ha : a.wf = true) (hb : b.wf = true)
    (h : expandLine l = expandLine a ++ expandLine b) : assemble [l] = assemble [a, b] := by
  rw [assemble_line l hl, h, List.map_append]
  exact (assemble_append [a] [b] _ _ (assemble_line a ha) (assemble_line b hb)).symm

/-! ## The pseudo-instructions -/

/-- One written command for each byte of a list, as words. -/
theorem map_commandWord_map (op : Nat → AsmCommand) (bs : List Nat) (h : ∀ b ∈ bs, (op b).wf = true) :
    (bs.map op).map commandWord = bs.map fun b => encode (namedCommand (op b)) := by
  rw [List.map_map]
  exact List.map_congr_left fun b hb => commandWord_eq_encode (op b) (h b hb)

section
variable (bs : List Nat) (hne : bs ≠ []) (hle : ∀ b ∈ bs, b ≤ 255)
include hne hle

/-- The three pseudo-instructions of a byte list have one check (R74, log 11). -/
theorem byteList_wf : (!bs.isEmpty && bs.all (· ≤ 255)) = true := by
  simpa [hne] using hle

theorem assemble_byteLists :
    assemble [.crcBytes bs] = some (bs.map fun b => encode (.crcByte (BitVec.ofNat 8 b))) ∧
    assemble [.crcCompute bs] =
      some (encode (.crcInit 0) :: bs.map fun b => encode (.crcByte (BitVec.ofNat 8 b))) ∧
    assemble [.desFeed bs] = some (bs.map fun b => encode (.desByte (BitVec.ofNat 8 b))) := by
  have hwf := byteList_wf bs hne hle
  have legal : ∀ b ∈ bs, decide (b ≤ 255) = true := fun b hb => decide_eq_true (hle b hb)
  have crc := map_commandWord_map .crcByte bs legal
  have des := map_commandWord_map .desByte bs legal
  refine ⟨?_, ?_, ?_⟩
  · exact (assemble_line (.crcBytes bs) hwf).trans (congrArg some crc)
  · exact (assemble_line (.crcCompute bs) hwf).trans (congrArg (fun ws => some (encode (.crcInit 0) :: ws)) crc)
  · exact (assemble_line (.desFeed bs) hwf).trans (congrArg some des)

end

theorem assemble_serDrain : assemble [.serDrain] = some (List.replicate 72 (encode (.serPull 0))) :=
  (assemble_line .serDrain rfl).trans (congrArg some List.map_replicate)

theorem assemble_serSend (cap : Nat) (h : cap ≤ 255) :
    assemble [.serSend cap] =
      some (encode (.serEncode (BitVec.ofNat 8 cap)) :: List.replicate 72 (encode (.serPull 0))) := by
  have legal : decide (cap ≤ 255) = true := decide_eq_true h
  rw [assemble_line (.serSend cap) legal, expandLine, List.map_cons, List.map_replicate,
    commandWord_eq_encode (.serEncode cap) legal]
  rfl

/-- Settles O32: a written command has the word of the command it names, and a program has the words of its
expanded lines. -/
theorem assembledWordsDecodeToTheirCommands : Obligations.AssembledWordsDecodeToTheirCommands := by
  refine ⟨decodeWord_commandWord_toNat, decodeWord_commandWord .nop rfl, decodeWord_commandWord .crcInit rfl,
    decodeWord_commandWord .serPull rfl, decodeWord_commandWord .desReset rfl, fun w => BitVec.ofNat_toNat 12 w,
    fun c hwf hc => ?_, fun c => assemble_line (.command c), assemble_byteLists, assemble_serDrain, assemble_serSend,
    assemble_append, fun c hc => assemble_eq_none _ ⟨_, List.mem_singleton_self _, hc⟩, assemble_eq_none,
    fun bs hwf => ?_, fun cap hwf => ?_⟩
  · rw [decodeWord_commandWord c hwf]
    exact namedCommand_canonical c hc
  · exact assemble_pair _ _ _ hwf rfl hwf rfl
  · exact assemble_pair _ _ _ hwf hwf rfl rfl

end Sys2Proof.Machine
end

section
/-! The codes of the response kinds and the fields each carries (spec 30_encoding.md R75, R76). -/

namespace Sys2Proof.Machine

section
variable (r : Response)

theorem Response.kind_mem :
    r.kind ∈ [0x0#4, 0x1#4, 0x2#4, 0x3#4, 0x4#4, 0x5#4, 0x6#4, 0x7#4, 0x8#4, 0x9#4, 0xE#4] := by
  cases r <;> simp [Response.kind]

theorem Response.kind_of_data_ne_zero (h : r.data ≠ 0) : r.kind ∈ [0x1#4, 0x2#4, 0x4#4, 0x8#4] := by
  cases r with
  | rspCrc _ | rspSerOk _ | rspSerByte _ | rspDesInvalidChecksum _ _ _ => simp [Response.kind]
  | _ => exact absurd rfl h

theorem Response.kind_of_len_ne_zero (h : r.len ≠ 0) : r.kind ∈ [0x8#4, 0x9#4] := by
  cases r with
  | rspDesInvalidChecksum _ _ _ | rspDesPayloadError _ _ => simp [Response.kind]
  | _ => exact absurd rfl h

/-- `PAYLOAD_SHORT` is the only detail code there is (R76). -/
theorem PayloadError.code_eq (e : PayloadError) : e.code = 0x1#4 := by
  cases e
  rfl

theorem Response.detail_cases : r.detail = 0x1#4 ∧ r.kind = 0x9#4 ∨ r.detail = 0x0#4 ∧ r.kind ≠ 0x9#4 := by
  cases r with
  | rspDesPayloadError e _ => exact .inl ⟨e.code_eq, rfl⟩
  | _ => exact .inr ⟨rfl, by simp [Response.kind]⟩

theorem Response.kind_of_record_ne_zero (h : r.record ≠ Record.zero) : r.kind = 0x6#4 := by
  cases r with
  | rspDesOk _ => rfl
  | _ => exact absurd rfl h

theorem Response.kind_of_payload_ne_zero (h : r.payload ≠ Vector.replicate 64 0#8) : r.kind = 0x8#4 := by
  cases r with
  | rspDesInvalidChecksum _ _ _ => rfl
  | _ => exact absurd rfl h

end

/-- Every payload length fits in the seven bits of `rsp_len`. -/
theorem toNat_ofNat_desLen (n : Fin 65) : (BitVec.ofNat 7 n).toNat = n := Nat.mod_eq_of_lt (by omega)

/-- Settles O45: the fields of each kind, and for each field the kinds that carry it. -/
theorem responseFieldsOfEachKind : Obligations.ResponseFieldsOfEachKind :=
  ⟨Response.kind_mem, Response.kind_of_data_ne_zero, Response.kind_of_len_ne_zero, Response.detail_cases,
    Response.kind_of_record_ne_zero, Response.kind_of_payload_ne_zero,
    fun _ n _ => ⟨rfl, rfl, toNat_ofNat_desLen n, rfl⟩, fun e n => ⟨rfl, e.code_eq, toNat_ofNat_desLen n⟩,
    fun _ => ⟨rfl, rfl⟩, fun _ => ⟨rfl, rfl⟩, fun _ => ⟨rfl, rfl⟩, rfl, rfl, rfl, rfl, rfl, rfl, rfl⟩

end Sys2Proof.Machine
end

section
/-! The CRC function against its parameters, the CRCU commands, and that a changed byte changes the CRC (spec
40_crc.md). -/

namespace Sys2Proof.Machine

/-! ## `crc_step` is linear and loses nothing (R78) -/

theorem iterate_crcBit_xor (n : Nat) (a b : Word) : crcBit^[n] (a ^^^ b) = crcBit^[n] a ^^^ crcBit^[n] b := by
  induction n generalizing a b with
  | zero => rfl
  | succ n ih => rw [Function.iterate_succ_apply, crcBit_xor, ih]; rfl

theorem crcStep_xor (a b : Word) (d e : Byte) : crcStep (a ^^^ b) (d ^^^ e) = crcStep a d ^^^ crcStep b e := by
  rw [crcStep, crcStep, crcStep, ← iterate_crcBit_xor, BitVec.setWidth_xor]
  congr 1
  ac_rfl

/-- Settles O6: eight passes of `crcBit` are the loop, and each pass is linear. -/
theorem crcStepIsLinear : Obligations.CrcStepIsLinear := by
  refine ⟨fun acc d => ?_, fun a b => crcStep_xor a b 0 0, by decide⟩
  exact (List.foldl_const crcBit _ (List.range 8)).symm

theorem crcStep_left_injective (d : Byte) : Function.Injective fun acc => crcStep acc d := by
  intro a b h
  exact (BitVec.xor_left_inj _).mp (crcBit_injective.iterate 8 h)

theorem crcStep_right_injective (acc : Word) : Function.Injective (crcStep acc) := by
  intro d e h
  have hw : d.setWidth 32 = e.setWidth 32 := (BitVec.xor_right_inj _).mp (crcBit_injective.iterate 8 h)
  simpa using congrArg (BitVec.setWidth 8) hw

theorem crcUpdate_injective (bs : List Byte) : Function.Injective fun acc => crcUpdate acc bs := by
  induction bs with
  | nil => exact Function.injective_id
  | cons d bs ih => exact ih.comp (crcStep_left_injective d)

theorem crc32_injective_at (as bs : List Byte) : Function.Injective fun d => crc32 (as ++ d :: bs) := by
  intro d e h
  simp only [crc32, crcUpdate_append, crcUpdate_cons, BitVec.xor_left_inj] at h
  exact crcStep_right_injective _ (crcUpdate_injective bs h)

/-- Replacing one byte by another one changes the CRC, by whatever bits they differ (R81). -/
theorem crc32_set_ne (bs : List Byte) (k : Nat) (d : Byte) (hk : k < bs.length) (hd : d ≠ bs[k]) :
    crc32 (bs.set k d) ≠ crc32 bs := by
  intro h
  rw [List.set_eq_take_cons_drop d hk] at h
  conv_rhs at h => rw [← List.take_append_drop k bs, List.drop_eq_getElem_cons hk]
  exact hd (crc32_injective_at _ _ h)

/-! ## The reflected form is the normal form reversed (R77) -/

theorem reverse_xor {w : Nat} (a b : BitVec w) : (a ^^^ b).reverse = a.reverse ^^^ b.reverse := by
  apply BitVec.eq_of_getLsbD_eq
  intro i hi
  simp [BitVec.getLsbD_reverse]

theorem reverse_shiftLeft {w : Nat} (a : BitVec w) (n : Nat) : (a <<< n).reverse = a.reverse >>> n := by
  apply BitVec.eq_of_getLsbD_eq
  intro i hi
  rw [BitVec.getLsbD_reverse, BitVec.getMsbD_shiftLeft, BitVec.getLsbD_ushiftRight, BitVec.getLsbD_reverse,
    Nat.add_comm]

theorem reverse_crcPolynomial : Config.crcPolynomial.reverse = Config.crcPolynomialReflected := by
  decide +kernel

theorem reverse_crcNormalBit : Function.Semiconj BitVec.reverse crcNormalBit crcBit := by
  intro a
  have out : a.reverse.getLsbD 0 = a.getLsbD 31 := BitVec.getLsbD_reverse
  unfold crcNormalBit crcBit
  rw [out]
  split
  · rw [reverse_xor, reverse_shiftLeft, ← reverse_crcPolynomial]; rfl
  · rw [reverse_shiftLeft]

/-- A byte reflected at the top of the remainder is, reversed, the byte at its low end. -/
theorem reverse_byteAtTop (d : Byte) : (d.reverse.setWidth 32 <<< 24).reverse = d.setWidth 32 := by
  apply BitVec.eq_of_getLsbD_eq
  intro i hi
  rw [BitVec.getLsbD_reverse, BitVec.getMsbD_eq_getLsbD, BitVec.getLsbD_shiftLeft, BitVec.getLsbD_setWidth,
    BitVec.getLsbD_reverse, BitVec.getMsbD_eq_getLsbD, BitVec.getLsbD_setWidth]
  rcases Nat.lt_or_ge i 8 with h | h
  · have e : 8 - 1 - (32 - 1 - i - 24) = i := by omega
    have low : 32 - 1 - i - 24 < 8 ∧ ¬ 32 - 1 - i < 24 ∧ 32 - 1 - i < 32 ∧ 32 - 1 - i - 24 < 32 := by omega
    simp only [hi, low, e, decide_true, decide_false, Bool.not_false, Bool.true_and]
  · have shifted : 32 - 1 - i < 24 := by omega
    simp only [shifted, BitVec.getLsbD_of_ge d i h, decide_true, Bool.not_true, Bool.and_false, Bool.false_and]

/-- Both forms stay each other's reverse while bytes are added. -/
theorem crcUpdate_reverse (a : Word) (bs : List Byte) :
    crcUpdate a.reverse bs =
      (bs.foldl (fun (a : Word) (d : Byte) => crcNormalBit^[8] (a ^^^ (d.reverse.setWidth 32 <<< 24))) a).reverse := by
  refine List.foldl_hom BitVec.reverse fun a d => ?_
  rw [crcStep, reverse_crcNormalBit.iterate_right 8 _, reverse_xor, reverse_byteAtTop]

/-- Settles O7: the remainder of the reflected form is that of the normal form reversed, byte after byte. -/
theorem crc32HasTheStatedParameters : Obligations.Crc32HasTheStatedParameters := by
  refine ⟨fun bs => ?_, reverse_crcPolynomial, by decide +kernel⟩
  have init : Config.crcInit = (0xFFFFFFFF#32).reverse := by decide +kernel
  rw [crc32, crcByParameters, init, crcUpdate_reverse]
  rfl

/-! ## CRC_INIT and CRC_BYTE (R82, R83) -/

/-- What both CRCU commands do to the machine: the remainder is `a`, and `crc_out` is the response (R44). -/
def State.setRemainder (s : State) (a : Word) : State :=
  (s.withCrcu { crcAcc := a }).respond (.rspCrc (a ^^^ Config.crcFinalXor))

theorem exec_crcInit (data : Byte) (s : State) : exec (.crcInit data) s = .next (s.setRemainder Config.crcInit) := rfl

theorem exec_crcByte (d : Byte) (s : State) :
    exec (.crcByte d) s = .next (s.setRemainder (crcStep s.crcu.crcAcc d)) := rfl

/-- Settles O3, from the meaning of CRC_INIT. -/
theorem crcInitStartsNewCrc : Obligations.CrcInitStartsNewCrc :=
  fun data s => ⟨decodeWord_encode (.crcInit data), exec_crcInit data s⟩

/-- Settles O4, from the meaning of CRC_BYTE. -/
theorem crcByteAddsOneByte : Obligations.CrcByteAddsOneByte :=
  fun d s => ⟨decodeWord_encode (.crcByte d), _, exec_crcByte d s, rfl, rfl⟩

/-- The commands CRC_BYTE of a byte sequence add it to the running CRC, and `rsp` keeps showing `crc_out`. -/
theorem run_crcBytes (bs : List Byte) (s : State) (inputs rest : List HostInput) (hf : s.fault = none)
    (hr : s.rsp = some (.rspCrc s.crcOut)) (hp : s.pending = inputs ++ rest)
    (hi : givesCommands inputs (bs.map .crcByte)) :
    ∃ t rs, run bs.length s = .next (t, rs) ∧ t.crcu.crcAcc = crcUpdate s.crcu.crcAcc bs ∧
      t.rsp = some (.rspCrc t.crcOut) ∧ t.pending = rest ∧ t.ser = s.ser ∧ t.des = s.des ∧ t.fault = none := by
  induction bs generalizing s inputs with
  | nil =>
    cases givesCommands_nil inputs hi
    exact ⟨s, [], rfl, rfl, hr, hp, rfl, rfl, hf⟩
  | cons d bs ih =>
    obtain ⟨r, tail, rfl, htail⟩ := givesCommands_cons inputs _ _ hi
    have first := (step_of_instr s _ r (tail ++ rest) hf hp).trans (exec_crcByte d _)
    obtain ⟨t, rs, hrun, ht⟩ :=
      ih ((s.present r (tail ++ rest)).setRemainder (crcStep s.crcu.crcAcc d)) tail hf rfl rfl htail
    exact ⟨t, _, run_succ _ s _ t rs first hrun, ht⟩

/-- Settles O5: CRC_INIT answers `crc_out` of the empty sequence, and the bytes are added to it. -/
theorem crcStreamComputesCrc32 : Obligations.CrcStreamComputesCrc32 := by
  intro s inputs rest data bs hf hp hi
  obtain ⟨r, tail, rfl, htail⟩ := givesCommands_cons inputs _ _ hi
  have first := (step_of_instr s _ r (tail ++ rest) hf hp).trans (exec_crcInit data _)
  obtain ⟨t, rs, hrun, hacc, hrsp, ht⟩ :=
    run_crcBytes bs ((s.present r (tail ++ rest)).setRemainder Config.crcInit) tail rest hf rfl rfl htail
  have hout : t.crcOut = crc32 bs := congrArg (· ^^^ Config.crcFinalXor) hacc
  exact ⟨t, _, run_succ _ s _ t rs first hrun, hout, hout ▸ hrsp, ht⟩

end Sys2Proof.Machine
end

section
/-! A whole frame given to DES in `ReadingMagic`, sound or with one payload bit flipped (spec 42_deserializer.md R94,
R104, R106; 40_crc.md R81). -/

namespace Sys2Proof.Machine

/-! ## A record and its payload determine each other (R84) -/

theorem append_toList_inj {n : Nat} (as bs : List Byte) (v w : Vector Byte n) :
    as ++ v.toList = bs ++ w.toList ↔ as = bs ∧ v = w := by
  constructor
  · intro h
    obtain ⟨hab, hvw⟩ := List.append_inj' h (by simp)
    exact ⟨hab, Vector.toList_inj.mp hvw⟩
  · rintro ⟨rfl, rfl⟩
    rfl

theorem bytesBe32_injective : Function.Injective bytesBe32 := Function.LeftInverse.injective be32_bytesBe32

theorem pack_injective : Function.Injective pack := by
  rintro ⟨⟩ ⟨⟩ h
  simpa only [pack_toList, append_toList_inj, Vector.toList_inj, bytesBe32_injective.eq_iff, and_assoc,
    Record.mk.injEq] using congrArg Vector.toList h

@[simp] theorem unpackRecord_pack (r : Record) : unpackRecord (pack r) = r :=
  pack_injective (pack_unpackRecord (pack r))

theorem padded_vector (S : Vector Byte 64) : padded S.toList = S := by
  apply Vector.toList_inj.mp
  rw [padded_toList _ (by simp)]
  simp

/-! ## The bytes of a frame (R66, R86) -/

/-- MAGIC, LEN = 64, the payload `S` and the checksum bytes `c`: `frame` without the rule that `c` is the CRC. -/
def frameBytes (S : Vector Byte 64) (c : Vector Byte 4) : List Byte :=
  Config.magic.toList ++ 0x40#8 :: (S.toList ++ c.toList)

theorem frame_toList (r : Record) :
    (frame r).toList = frameBytes (pack r) (bytesBe32 (crc32 (pack r).toList)) := by
  simp only [frame, frameBytes, Vector.toList_append, List.append_assoc]
  rfl

theorem frameBytes_length (S : Vector Byte 64) (c : Vector Byte 4) : (frameBytes S c).length = 72 := by
  simp [frameBytes]

/-- Another payload put between the LEN byte and the checksum of a frame. -/
theorem frameBytes_replace_payload (S T : Vector Byte 64) (c : Vector Byte 4) :
    (frameBytes S c).take 4 ++ T.toList ++ (frameBytes S c).drop 68 = frameBytes T c := by
  have header : (Config.magic.toList ++ [0x40#8]).length = 4 := rfl
  have split (V : Vector Byte 64) :
      frameBytes V c = (Config.magic.toList ++ [0x40#8]) ++ V.toList ++ c.toList := by simp [frameBytes]
  rw [split S, split T, List.append_assoc _ S.toList, List.take_left' header, ← List.append_assoc,
    List.drop_left' (by simp)]

/-! ## MAGIC, from any match index (R94) -/

section
variable (mode : ZeroLenMode) (u : Des) (d : Byte) (hs : u.desState = .readingMagic)
include hs

theorem Des.consume_magic_other (hd : d ≠ Config.magic[u.magicIdx.val]) :
    u.consume mode d = .done u .rspNone := by
  simp [Des.consume, hs, Des.readMagic, hd]

theorem Des.consume_magic_next (j : Fin 3) (hd : d = Config.magic[u.magicIdx.val])
    (hj : j.val = u.magicIdx.val + 1) : u.consume mode d = .done { u with magicIdx := j } .rspNone := by
  have hlt : u.magicIdx.val < 2 := by omega
  have e : j = ⟨u.magicIdx.val + 1, by omega⟩ := Fin.ext hj
  simp [Des.consume, hs, Des.readMagic, hd, hlt, e]

theorem Des.consume_magic_lock (hd : d = Config.magic[u.magicIdx.val]) (hi : u.magicIdx = 2) :
    u.consume mode d = .done { u with desState := .readingLength, magicIdx := 0 } .rspNone := by
  simp [Des.consume, hs, Des.readMagic, hd, hi]

/-- The bytes before the expected one are skipped, and from there each byte advances the match. -/
theorem Des.feed_magic :
    Des.feed mode Config.magic.toList u =
      some ({ u with desState := .readingLength, magicIdx := 0 }, [.rspNone, .rspNone, .rspNone]) := by
  obtain ⟨_, i, _, _, _, _, _⟩ := u
  subst hs
  match i with
  | 0 =>
    refine Des.feed_cons _ _ _ _ _ _ _ _ (Des.consume_magic_next mode _ _ rfl 1 rfl rfl) ?_
    refine Des.feed_cons _ _ _ _ _ _ _ _ (Des.consume_magic_next mode _ _ rfl 2 rfl rfl) ?_
    exact Des.feed_cons _ _ _ _ _ _ _ _ (Des.consume_magic_lock mode _ _ rfl rfl rfl) rfl
  | 1 =>
    refine Des.feed_cons _ _ _ _ _ _ _ _ (Des.consume_magic_other mode _ _ rfl (show 0x7D#8 ≠ 0x08#8 by decide)) ?_
    refine Des.feed_cons _ _ _ _ _ _ _ _ (Des.consume_magic_next mode _ _ rfl 2 rfl rfl) ?_
    exact Des.feed_cons _ _ _ _ _ _ _ _ (Des.consume_magic_lock mode _ _ rfl rfl rfl) rfl
  | 2 =>
    refine Des.feed_cons _ _ _ _ _ _ _ _ (Des.consume_magic_other mode _ _ rfl (show 0x7D#8 ≠ 0x8D#8 by decide)) ?_
    refine Des.feed_cons _ _ _ _ _ _ _ _ (Des.consume_magic_other mode _ _ rfl (show 0x08#8 ≠ 0x8D#8 by decide)) ?_
    exact Des.feed_cons _ _ _ _ _ _ _ _ (Des.consume_magic_lock mode _ _ rfl rfl rfl) rfl

/-! ## A frame of 64 payload bytes -/

/-- 71 bytes answer nothing, and the last one the verdict on payload and checksum. -/
theorem Des.feed_frameBytes (S : Vector Byte 64) (c : Vector Byte 4) :
    Des.feed mode (frameBytes S c) u =
      some (Des.afterAttempt 64 S.toList c,
        List.replicate 71 .rspNone ++ [(Des.afterAttempt 64 S.toList c).verdict (be32 c)]) := by
  have attempt := Des.feed_frameAttempt mode { u with desState := .readingLength, magicIdx := 0 } 64 S.toList c rfl
    (by simp) (List.ne_nil_of_length_pos (by simp))
  have responses : List.replicate 71 Response.rspNone =
      [.rspNone, .rspNone, .rspNone] ++ List.replicate (S.toList.length + 4) .rspNone := by simp
  rw [responses, List.append_assoc]
  exact Des.feed_append mode _ _ _ _ _ _ _ (u.feed_magic mode hs) attempt

end

theorem Des.verdict_afterAttempt_ne (S : Vector Byte 64) (c : Word) (h : crc32 S.toList ≠ c) :
    (Des.afterAttempt 64 S.toList (bytesBe32 c)).verdict c = .rspDesInvalidChecksum c 64 S := by
  rw [Des.verdict, Des.afterAttempt_payloadBytes _ _ _ (by simp), if_neg h, Des.afterAttempt, padded_vector]

theorem Des.verdict_afterAttempt_pack (r : Record) (c : Word) (h : crc32 (pack r).toList = c) :
    (Des.afterAttempt 64 (pack r).toList (bytesBe32 c)).verdict c = .rspDesOk r := by
  rw [Des.verdict, Des.afterAttempt_payloadBytes _ _ _ (by simp), if_pos h, Des.afterAttempt, padded_vector,
    unpack_full _ _ rfl, unpackRecord_pack]

theorem Des.feed_frame (mode : ZeroLenMode) (u : Des) (hs : u.desState = .readingMagic) (r : Record) :
    ∃ v, Des.feed mode (frame r).toList u = some (v, List.replicate 71 .rspNone ++ [.rspDesOk r]) ∧
      v.desState = .readingMagic ∧ v.magicIdx = 0 ∧ v.scratch = pack r := by
  have feed := u.feed_frameBytes mode hs (pack r) (bytesBe32 (crc32 (pack r).toList))
  rw [← frame_toList, be32_bytesBe32, Des.verdict_afterAttempt_pack r _ rfl] at feed
  exact ⟨_, feed, rfl, rfl, padded_vector _⟩

/-! ## One flipped payload bit -/

theorem xor_oneBit_ne (d : Byte) (b : Fin 8) : d ^^^ (1#8 <<< b.val) ≠ d := by
  intro h
  have bit := congrArg (·.getLsbD b) h
  simp at bit

/-- Settles O52: the flipped bit changes the CRC, so the first frame ends with `InvalidChecksum`; it leaves DES in
`ReadingMagic`, where the next frame decodes. -/
theorem flippedPayloadBitIsDetected : Obligations.FlippedPayloadBitIsDetected := by
  intro s inputs rest r next k b corrupted hf hs hp hc hi
  have detected : crc32 corrupted.toList ≠ crc32 (pack r).toList := by
    rw [hc, Vector.toList_set]
    exact crc32_set_ne _ _ _ (by simp) (xor_oneBit_ne (pack r)[k.val] b)
  have first := Des.feed_frameBytes Config.zeroLenMode s.des hs corrupted (bytesBe32 (crc32 (pack r).toList))
  rw [be32_bytesBe32, Des.verdict_afterAttempt_ne _ _ detected] at first
  obtain ⟨v, second, hmagic, hidx, -⟩ := Des.feed_frame Config.zeroLenMode
    (Des.afterAttempt 64 corrupted.toList (bytesBe32 (crc32 (pack r).toList))) rfl next
  have both := Des.feed_append _ _ _ _ _ _ _ _ first second
  rw [frame_toList r, frameBytes_replace_payload] at hi
  obtain ⟨t, hrun, hdes, -, -, hfault, -⟩ := run_desBytes _ s inputs rest _ _ hf hp hi both
  have length : (frameBytes corrupted (bytesBe32 (crc32 (pack r).toList)) ++ (frame next).toList).length = 144 := by
    rw [List.length_append, frameBytes_length, Vector.length_toList]
  rw [length] at hrun
  refine ⟨t, ?_, hdes ▸ hmagic, hdes ▸ hidx, hfault⟩
  simpa only [List.map_append, List.map_replicate, List.map_cons, List.map_nil, List.append_assoc] using hrun

end Sys2Proof.Machine
end

section
/-! The packed payload and the frame byte by byte, the SER commands, and a frame handed out whole (spec
41_serializer.md). -/

namespace Sys2Proof.Machine

/-! ## The bytes of a payload and of a frame (R84, R86) -/

/-- The bytes of a value read at an offset of a buffer stand there in the buffer. -/
theorem getElem_of_be32At_eq {S : Vector Byte 64} {off : Nat} {v : Word} {h : off + 4 ≤ 64} (hv : be32At S off h = v)
    (k : Fin 4) : S[off + k.val] = (bytesBe32 v)[k.val] := by
  subst hv
  simp only [be32At, bytesBe32_be32]
  match k with
  | 0 | 1 | 2 | 3 => rfl

/-- Settles O8: `unpack` finds each field of a record at its offset in the payload that `pack` makes of it. -/
theorem packPlacesFieldsAtOffsets : Obligations.PackPlacesFieldsAtOffsets := by
  intro r
  have fields := unpackRecord_pack r
  have deviceId (k : Fin 16) : (pack r)[k.val] = r.deviceId[k.val] := by
    rw [← congrArg Record.deviceId fields, unpackRecord, Vector.getElem_ofFn]
  exact ⟨deviceId,
    getElem_of_be32At_eq (congrArg Record.loopCnt fields),
    getElem_of_be32At_eq (congrArg Record.tipCnt fields),
    getElem_of_be32At_eq (congrArg Record.vbat fields),
    getElem_of_be32At_eq (congrArg Record.temperature fields),
    getElem_of_be32At_eq (congrArg Record.relativeHumidity fields),
    getElem_of_be32At_eq (congrArg Record.usbBytesRead fields),
    getElem_of_be32At_eq (congrArg Record.usbBytesWritten fields),
    getElem_of_be32At_eq (congrArg Record.usbErrorCnt fields),
    getElem_of_be32At_eq (congrArg Record.loraRxBytes fields),
    getElem_of_be32At_eq (congrArg Record.loraTxBytes fields),
    getElem_of_be32At_eq (congrArg Record.loraErrorCnt fields),
    getElem_of_be32At_eq (congrArg Record.hardwareErrOtherCnt fields)⟩

/-- Settles O9: the four parts of a frame are appended. -/
theorem frameIsMagicLenPayloadCrc : Obligations.FrameIsMagicLenPayloadCrc := by
  intro r
  refine ⟨?_, Vector.length_toList⟩
  rw [frame_toList, frameBytes, List.append_assoc]
  rfl

/-! ## SER_ENCODE (R87, R89) -/

theorem exec_serEncode_tooSmall (cap : Byte) (s : State) (hc : cap.toNat < 72) :
    exec (.serEncode cap) s = .next (s.respond .rspSerTooSmall) :=
  execSerEncode_tooSmall cap s hc

theorem exec_serEncode_fits (cap : Byte) (s : State) (hc : 72 ≤ cap.toNat) :
    exec (.serEncode cap) s = .next ((s.withSer (Ser.load s.recIn)).respond (.rspSerOk 72)) :=
  execSerEncode_fits cap s (Nat.not_lt.mpr hc)

/-- Settles O10: the capacity alone decides between the two answers. -/
theorem serEncodeFramesRecordOrRefuses : Obligations.SerEncodeFramesRecordOrRefuses :=
  fun cap s => ⟨decodeWord_encode (.serEncode cap), exec_serEncode_tooSmall cap s, exec_serEncode_fits cap s⟩

/-- Settles O40: SER is loaded with the record's frame, whatever it held before. -/
theorem frameDependsOnRecordAlone : Obligations.FrameDependsOnRecordAlone := by
  intro s t a b hr ha hb
  refine ⟨_, _, exec_serEncode_fits a s ha, exec_serEncode_fits b t hb, ?_⟩
  simp [hr]

/-! ## SER_PULL (R88) -/

theorem exec_serPull_byte (data : Byte) (s : State) (h : s.ser.serRd < s.ser.serLen) :
    ∃ (in_frame : s.ser.serRd.val < 72) (n : Fin 73), n.val = s.ser.serRd.val + 1 ∧
      exec (.serPull data) s =
        .next ((s.withSer { s.ser with serRd := n }).respond (.rspSerByte s.ser.serFrame[s.ser.serRd.val])) :=
  have in_frame : s.ser.serRd.val < 72 := Nat.lt_of_lt_of_le h (Nat.le_of_lt_succ s.ser.serLen.isLt)
  ⟨in_frame, ⟨s.ser.serRd.val + 1, Nat.succ_lt_succ in_frame⟩, rfl, dif_pos h⟩

theorem exec_serPull_empty (data : Byte) (s : State) (h : ¬ s.ser.serRd < s.ser.serLen) :
    exec (.serPull data) s = .next (s.respond .rspSerEmpty) :=
  dif_neg h

/-- Settles O11, from the two cases of the read index. -/
theorem serPullHandsOutNextByte : Obligations.SerPullHandsOutNextByte :=
  fun data s => ⟨decodeWord_encode (.serPull data), exec_serPull_byte data s, exec_serPull_empty data s⟩

/-! ## Pulling a frame -/

/-- As many SER_PULLs as bytes are left, or fewer, hand out that many bytes from the read index on. -/
theorem run_serPulls (pulls : List Byte) (s : State) (inputs rest : List HostInput) (hf : s.fault = none)
    (hp : s.pending = inputs ++ rest) (hi : givesCommands inputs (pulls.map .serPull))
    (hl : s.ser.serRd.val + pulls.length ≤ s.ser.serLen.val) :
    ∃ t, run pulls.length s = .next (t, ((s.ser.serFrame.toList.drop s.ser.serRd).take pulls.length).map
        fun b => some (.rspSerByte b)) ∧
      (∃ n : Fin 73, n.val = s.ser.serRd.val + pulls.length ∧ t.ser = { s.ser with serRd := n }) ∧
      t.pending = rest ∧ t.crcu = s.crcu ∧ t.des = s.des ∧ t.fault = none := by
  induction pulls generalizing s inputs with
  | nil =>
    cases givesCommands_nil inputs hi
    exact ⟨s, rfl, ⟨s.ser.serRd, rfl, rfl⟩, hp, rfl, rfl, hf⟩
  | cons data pulls ih =>
    obtain ⟨r, tail, rfl, htail⟩ := givesCommands_cons inputs _ _ hi
    rw [List.length_cons] at hl
    have hlt : s.ser.serRd < s.ser.serLen := by rw [Fin.lt_def]; omega
    obtain ⟨hrd, n, hn, hx⟩ := exec_serPull_byte data (s.present r (tail ++ rest)) hlt
    have first := (step_of_instr s _ r (tail ++ rest) hf hp).trans hx
    simp only [State.present_ser] at hrd hn first
    obtain ⟨t, hrun, ⟨m, hm, hser⟩, ht⟩ :=
      ih (((s.present r (tail ++ rest)).withSer { s.ser with serRd := n }).respond
        (.rspSerByte s.ser.serFrame[s.ser.serRd.val])) tail hf rfl htail
        (show n.val + pulls.length ≤ s.ser.serLen.val by omega)
    refine ⟨t, ?_, ⟨m, ?_, hser⟩, ht⟩
    · have whole := run_succ _ s _ t _ first hrun
      rw [List.drop_eq_getElem_cons (by simpa using hrd), ← hn]
      exact whole
    · simp only [State.respond_ser, State.withSer_ser] at hm
      rw [List.length_cons]
      omega

/-- A successful SER_ENCODE and 72 SER_PULLs hand out the whole frame of the record (R87, R88). -/
theorem run_encode_then_pulls (s : State) (inputs rest : List HostInput) (cap : Byte) (r : Record) (pulls : List Byte)
    (hf : s.fault = none) (hc : 72 ≤ cap.toNat) (hl : pulls.length = 72)
    (hp : s.pending = .command (encode (.serEncode cap)) r :: (inputs ++ rest))
    (hi : givesCommands inputs (pulls.map .serPull)) :
    ∃ t, run 73 s = .next (t, some (.rspSerOk 72) :: (frame r).toList.map fun b => some (.rspSerByte b)) ∧
      t.ser = { serFrame := frame r, serLen := 72, serRd := 72 } ∧ t.pending = rest ∧ t.crcu = s.crcu ∧
      t.des = s.des ∧ t.fault = none := by
  have first := (step_of_instr s _ r (inputs ++ rest) hf hp).trans (exec_serEncode_fits cap _ hc)
  obtain ⟨t, hrun, ⟨n, hn, hser⟩, ht⟩ :=
    run_serPulls pulls (((s.present r (inputs ++ rest)).withSer (Ser.load r)).respond (.rspSerOk 72)) inputs rest hf rfl
      hi (Nat.le_of_eq (show 0 + pulls.length = 72 by omega))
  rw [hl] at hrun hn
  obtain rfl : n = 72 := Fin.ext hn
  have bytes : ((frame r).toList.drop 0).take 72 = (frame r).toList := List.take_of_length_le (by simp)
  refine ⟨t, ?_, hser, ht⟩
  rw [← bytes]
  exact run_succ _ s _ t _ first hrun

/-- Settles O12: after the 72nd pull the read index stands at the end of the frame, so one more finds no byte. -/
theorem pullsHandOutWholeFrameThenNothing : Obligations.PullsHandOutWholeFrameThenNothing := by
  intro s inputs rest cap r pulls hf hc hl hp hi
  obtain rfl | ⟨pulls, last, rfl⟩ := pulls.eq_nil_or_concat'
  case inl => cases hl
  rw [List.map_append] at hi
  obtain ⟨inputs, final, rfl, hinputs, hfinal⟩ := givesCommands_append inputs _ _ hi
  obtain ⟨r', tail, rfl, htail⟩ := givesCommands_cons final _ _ hfinal
  cases givesCommands_nil tail htail
  rw [List.append_assoc] at hp
  obtain ⟨t, hrun, hser, hpend, hcrcu, hdes, hfault⟩ :=
    run_encode_then_pulls s inputs _ cap r pulls hf hc (by simpa using hl) hp hinputs
  have empty : ¬ t.ser.serRd < t.ser.serLen := by rw [hser]; exact lt_irrefl _
  have final := (step_of_instr t _ r' rest hfault hpend).trans (exec_serPull_empty last _ empty)
  have whole := run_append 73 1 s t _ _ _ hrun (run_succ 0 t _ _ [] final rfl)
  exact ⟨_, whole, hser, rfl, hcrcu, hdes, hfault⟩

end Sys2Proof.Machine
end

section
/-! DES byte by byte: what DES_BYTE does in each state of the decoder, and DES_RESET (spec 42_deserializer.md R91 to
R103, R108). -/

namespace Sys2Proof.Machine

/-! ## From the byte to the machine -/

theorem exec_desByte_done {d : Byte} {s : State} {u : Des} {r : Response}
    (h : s.des.consume Config.zeroLenMode d = .done u r) : exec (.desByte d) s = .next ((s.withDes u).respond r) := by
  rw [exec, execDesByte, byteOperand, h, ByteOutcome.apply]

theorem exec_desByte_raises {d : Byte} {s : State} {f : FaultReason}
    (h : s.des.consume Config.zeroLenMode d = .raises f) : exec (.desByte d) s = .next (s.raise f) := by
  rw [exec, execDesByte, byteOperand, h, ByteOutcome.apply]

/-- A faulted machine takes no step, as an equation for rewriting (R124). -/
theorem step_of_fault (s : State) (f : FaultReason) (hf : s.fault = some f) : step s = .fault (.faulted f) := by
  rw [step, hf]

/-- Settles O29, from the step without an input. -/
theorem idleStepHoldsEveryRegister : Obligations.IdleStepHoldsEveryRegister :=
  step_of_no_input

/-! ## `ReadingMagic` (R91, R92) -/

/-- Settles O14: the expected byte advances the match below index 2 and locks at it. -/
theorem magicByteAdvancesOrLocks : Obligations.MagicByteAdvancesOrLocks :=
  ⟨rfl, fun s d hs hd =>
    ⟨fun j hj => exec_desByte_done (s.des.consume_magic_next _ d hs j hd hj),
      fun hi => exec_desByte_done (s.des.consume_magic_lock _ d hs hd hi)⟩⟩

/-- Settles O15: DES is written with what it held. -/
theorem mismatchingByteKeepsMagicIndex : Obligations.MismatchingByteKeepsMagicIndex :=
  fun s d hs hd => exec_desByte_done (s.des.consume_magic_other _ d hs hd)

/-! ## `ReadingLength` (R95, R96) -/

theorem Des.consume_length_invalid (mode : ZeroLenMode) (u : Des) (d : Byte) (hs : u.desState = .readingLength)
    (hd : 64 < d.toNat) : u.consume mode d = .done u.returnToMagic .rspDesInvalidLength := by
  simp [Des.consume, hs, Des.readLength, hd]

/-- Settles O16, from the return to `ReadingMagic` that every DES error makes. -/
theorem lengthAboveSixtyFourIsInvalid : Obligations.LengthAboveSixtyFourIsInvalid :=
  fun s d hs hd => exec_desByte_done (s.des.consume_length_invalid _ d hs hd)

/-- Settles O17: the scratch buffer is that of a payload with no byte received. -/
theorem acceptedLengthZeroesScratch : Obligations.AcceptedLengthZeroesScratch := by
  intro s d n hs hn
  obtain rfl : d = BitVec.ofNat 8 n := by rw [hn, BitVec.ofNat_toNat, BitVec.setWidth_eq]
  exact ⟨padded [], fun i => by simp [padded_nil], exec_desByte_done (s.des.consume_length _ n hs)⟩

/-! ## `ReadingBytes` (R97, R98) -/

section
variable (mode : ZeroLenMode) (u : Des) (d : Byte) (hs : u.desState = .readingBytes)
include hs

/-- A byte stored at `des_cnt` that does not bring the count to `des_len`, whatever the buffer holds. -/
theorem Des.consume_store_more (n : Fin 65) (hl : u.desLen ≠ 0) (hc : u.desCnt.val < 64)
    (hn : n.val = u.desCnt.val + 1) (hmore : n ≠ u.desLen) :
    u.consume mode d = .done { u with scratch := u.scratch.set u.desCnt.val d, desCnt := n } .rspNone := by
  obtain rfl : n = ⟨u.desCnt.val + 1, Nat.succ_lt_succ hc⟩ := Fin.ext hn
  simp [Des.consume, hs, hl, Des.readPayload, hc, hmore]

/-- A byte stored at `des_cnt` that brings the count to `des_len`. -/
theorem Des.consume_store_last (n : Fin 65) (hl : u.desLen ≠ 0) (hc : u.desCnt.val < 64)
    (hn : n.val = u.desCnt.val + 1) (hlast : n = u.desLen) :
    u.consume mode d =
      .done { u with desState := .readingChecksum, scratch := u.scratch.set u.desCnt.val d, desCnt := n, crcCnt := 0 }
        .rspNone := by
  obtain rfl : n = ⟨u.desCnt.val + 1, Nat.succ_lt_succ hc⟩ := Fin.ext hn
  simp [Des.consume, hs, hl, Des.readPayload, hc, hlast]

theorem Des.consume_zeroLength (hl : u.desLen = 0) : u.consume mode d = u.readZeroLength mode d := by
  simp [Des.consume, hs, hl]

end

/-- Settles O18: the new count is `des_len` or not. -/
theorem payloadByteIsStoredAndCounted : Obligations.PayloadByteIsStoredAndCounted := by
  intro s d n hs hl hn
  have hc : s.des.desCnt.val < 64 := by omega
  have hl0 : s.des.desLen ≠ 0 := s.des.one_le_desLen_iff.mp hl
  exact ⟨hc, fun hlast => exec_desByte_done (s.des.consume_store_last _ d hs n hl0 hc hn hlast),
    fun hmore => exec_desByte_done (s.des.consume_store_more _ d hs n hl0 hc hn hmore)⟩

/-- The verdict on a frame attempt of length 0: the CRC of no bytes is 0, and no payload so short decodes (R98). -/
theorem Des.verdict_of_zeroLength (u : Des) (c : Word) (hl : u.desLen = 0) :
    u.verdict c =
      if c = 0x00000000#32 then .rspDesPayloadError .payloadShort 0 else .rspDesInvalidChecksum c 0 u.scratch := by
  have hbytes : u.payloadBytes = [] := by rw [Des.payloadBytes, hl]; rfl
  have hcrc : crc32 [] = 0x00000000#32 := by decide
  rw [Des.verdict, hbytes, hcrc, hl, unpack_short _ _ (by decide)]
  exact if_congr eq_comm rfl rfl

/-- Settles O20, by the two values of `ZERO_LEN_MODE`; the four checksum bytes end in the verdict on length 0. -/
theorem zeroLengthPayloadFollowsMode : Obligations.ZeroLengthPayloadFollowsMode := by
  refine ⟨fun s d hs hl => ?_, fun u d hs hl => u.consume_zeroLength _ d hs hl, fun u d c hs hl => ?_⟩
  · have hu := s.des.consume_zeroLength Config.zeroLenMode d hs hl
    split
    case h_1 hm => exact ⟨_, exec_desByte_raises (hu.trans (by rw [hm]; rfl)), rfl, step_of_fault _ _ rfl⟩
    case h_2 hm => exact exec_desByte_done (hu.trans (by rw [hm]; rfl))
  · have checksum := Des.feed_checksum .consumeOne
      { u with desState := .readingChecksum, scratch := u.scratch.set 0 d, desCnt := 1, crcCnt := 0 } c rfl rfl
    rw [Des.verdict_of_zeroLength] at checksum
    · exact ⟨_, Des.feed_cons _ d _ u _ _ _ _ (u.consume_zeroLength _ d hs hl) checksum, rfl⟩
    · exact hl

/-! ## `ReadingChecksum` (R99 to R101) -/

/-- Settles O21, from the counted bytes, the fourth one and the four of them together. -/
theorem checksumBytesShiftInBigEndian : Obligations.ChecksumBytesShiftInBigEndian :=
  ⟨fun s d n hs hn => exec_desByte_done (s.des.consume_checksum_more _ d n hs hn),
    fun s d hs hc => ⟨_, exec_desByte_done (s.des.consume_checksum_last _ d hs hc), rfl, rfl⟩,
    fun mode u c hs hc => ⟨_, _, u.feed_checksum mode c hs hc, rfl⟩⟩

/-- Settles O22: the fourth byte answers the verdict, which compares the CRC before it unpacks. -/
theorem fourthChecksumByteGivesVerdict : Obligations.FourthChecksumByteGivesVerdict := by
  rintro s d c hs hc rfl
  exact exec_desByte_done (s.des.consume_checksum_last _ d hs hc)

/-! ## The payload unpacker and DES_RESET (R103, R108) -/

/-- Settles O23: the length alone decides, and each 32-bit field is read at its offset. -/
theorem unpackNeedsExactlySixtyFourBytes : Obligations.UnpackNeedsExactlySixtyFourBytes :=
  fun S n => ⟨rfl, fun hn => unpack_short S n fun hv => hn (Fin.ext hv),
    fun hn => ⟨unpackRecord S, unpack_full S n (congrArg Fin.val hn), fun k => by simp [unpackRecord],
      be32At_eq S 16 _, be32At_eq S 20 _, be32At_eq S 24 _, be32At_eq S 28 _, be32At_eq S 32 _, be32At_eq S 36 _,
      be32At_eq S 40 _, be32At_eq S 44 _, be32At_eq S 48 _, be32At_eq S 52 _, be32At_eq S 56 _, be32At_eq S 60 _⟩⟩

/-- Settles O13, from the two round trips of the unpacked record. -/
theorem packAndUnpackAreInverse : Obligations.PackAndUnpackAreInverse := by
  refine ⟨fun r => ?_, fun S r h => ?_⟩
  · rw [unpack_full _ _ rfl, unpackRecord_pack]
  · rw [unpack_full S _ rfl] at h
    cases h
    exact pack_unpackRecord S

/-- Settles O24: DES is written with its reset value. -/
theorem desResetStartsNewDecoder : Obligations.DesResetStartsNewDecoder :=
  fun data _ => ⟨decodeWord_encode (.desReset data), Des.reset.scratch, fun _ => Vector.getElem_replicate _, rfl⟩

end Sys2Proof.Machine
end

section
/-! DES hunting for MAGIC in a byte stream, and a frame found there (spec 42_deserializer.md R93, R94, R104). -/

namespace Sys2Proof.Machine

/-! ## The rest of MAGIC that DES waits for -/

/-- The bytes of MAGIC still to come at a match index (R93). -/
def magicRest (i : Fin 3) : List Byte := Config.magic.toList.drop i

theorem magicRest_length (i : Fin 3) : (magicRest i).length = 3 - i.val := by
  simp [magicRest]

theorem magicRest_eq_cons (i : Fin 3) : magicRest i = Config.magic[i.val] :: Config.magic.toList.drop (i.val + 1) := by
  rw [magicRest, List.drop_eq_getElem_cons (by simp), Vector.getElem_toList]

theorem take_append_magicRest (i j : Fin 3) (h : i ≤ j) :
    (magicRest i).take (j.val - i.val) ++ magicRest j = magicRest i := by
  have e : magicRest j = (magicRest i).drop (j.val - i.val) := by
    rw [magicRest, magicRest, List.drop_drop, Nat.add_sub_cancel' h]
  rw [e, List.take_append_drop]

section
variable (i : Fin 3) (d : Byte) (bs : List Byte)

/-- A byte that is not the expected one completes nothing. -/
theorem magicRest_sublist_cons_of_ne (hd : d ≠ Config.magic[i.val]) :
    (magicRest i).Sublist (d :: bs) ↔ (magicRest i).Sublist bs := by
  rw [magicRest_eq_cons, List.cons_sublist_cons']
  simp [hd.symm]

/-- The expected byte leaves the bytes behind it to come. -/
theorem magicRest_sublist_cons_of_eq (hd : d = Config.magic[i.val]) :
    (magicRest i).Sublist (d :: bs) ↔ (Config.magic.toList.drop (i.val + 1)).Sublist bs := by
  rw [magicRest_eq_cons, hd, List.cons_sublist_cons]

end

/-! ## Hunting (R93) -/

/-- The match index `j` stands for all that the bytes `bs` hold of MAGIC from the index `i` on: whatever follows them
completes MAGIC from `i` just when it does so, alone, from `j`. -/
def IndexAfter (i j : Fin 3) (bs : List Byte) : Prop :=
  ∀ ds, (magicRest i).Sublist (bs ++ ds) ↔ (magicRest j).Sublist ds

/-- Bytes that do not complete MAGIC leave DES hunting, with the match index that stands for them. -/
theorem Des.feed_hunting (mode : ZeroLenMode) (u : Des) (bs : List Byte) (hs : u.desState = .readingMagic)
    (h : ¬ (magicRest u.magicIdx).Sublist bs) :
    ∃ j : Fin 3, Des.feed mode bs u = some ({ u with magicIdx := j }, List.replicate bs.length .rspNone) ∧
      IndexAfter u.magicIdx j bs := by
  induction bs generalizing u with
  | nil => exact ⟨u.magicIdx, rfl, fun _ => Iff.rfl⟩
  | cons d bs ih =>
    by_cases hd : d = Config.magic[u.magicIdx.val]
    case neg =>
      rw [magicRest_sublist_cons_of_ne _ d bs hd] at h
      obtain ⟨j, hfeed, hj⟩ := ih u hs h
      exact ⟨j, Des.feed_cons _ d _ u _ _ _ _ (u.consume_magic_other mode d hs hd) hfeed,
        fun ds => (magicRest_sublist_cons_of_ne _ d _ hd).trans (hj ds)⟩
    case pos =>
      rw [magicRest_sublist_cons_of_eq _ d bs hd] at h
      have hlt : u.magicIdx.val + 1 < 3 := by
        by_contra hge
        have nothing : Config.magic.toList.drop (u.magicIdx.val + 1) = [] :=
          List.drop_of_length_le (by simpa using hge)
        exact h (nothing ▸ List.nil_sublist bs)
      obtain ⟨j, hfeed, hj⟩ := ih { u with magicIdx := ⟨u.magicIdx.val + 1, hlt⟩ } hs h
      exact ⟨j, Des.feed_cons _ d _ u _ _ _ _ (u.consume_magic_next mode d hs ⟨_, hlt⟩ hd rfl) hfeed,
        fun ds => (magicRest_sublist_cons_of_eq _ d _ hd).trans (hj ds)⟩

section
variable {i j : Fin 3} {bs : List Byte} (h : IndexAfter i j bs)
include h

/-- The index never goes back: followed by the rest of MAGIC from `i`, the bytes complete it. -/
theorem IndexAfter.le : i ≤ j := by
  have hlen := ((h _).mp (List.sublist_append_right bs (magicRest i))).length_le
  rw [magicRest_length, magicRest_length] at hlen
  rw [Fin.le_def]
  omega

/-- The bytes hold MAGIC up to the new index. -/
theorem IndexAfter.take_sublist : ((magicRest i).take (j.val - i.val)).Sublist bs := by
  have whole := (h _).mpr (List.Sublist.refl (magicRest j))
  rwa [← take_append_magicRest i j h.le, List.append_sublist_append_right] at whole

/-- The bytes hold no more of MAGIC than up to the new index: one byte more, and too few would be left to come. -/
theorem IndexAfter.not_take_succ_sublist : ¬ ((magicRest i).take (j.val - i.val + 1)).Sublist bs := by
  intro more
  have whole := more.append (List.Sublist.refl ((magicRest i).drop (j.val - i.val + 1)))
  rw [List.take_append_drop] at whole
  have hlen := ((h _).mp whole).length_le
  have hle := Fin.le_def.mp h.le
  rw [List.length_drop, magicRest_length, magicRest_length] at hlen
  omega

end

/-- The rest of MAGIC is one byte only at index 2, where that byte locks. -/
theorem magicRest_sublist_singleton (j : Fin 3) (d : Byte) (h : (magicRest j).Sublist [d]) :
    j = 2 ∧ d = Config.magic[j.val] := by
  have hlen := h.length_le
  rw [magicRest_length, List.length_singleton] at hlen
  refine ⟨Fin.ext (by simp; omega), ?_⟩
  rw [magicRest_eq_cons] at h
  exact (List.mem_singleton.mp (h.subset List.mem_cons_self)).symm

/-- Settles O47: the index DES hunts with after `bs` stands for them, and the byte that completes MAGIC from it
locks. -/
theorem huntLocksOnMagicSubsequence : Obligations.HuntLocksOnMagicSubsequence := by
  refine fun mode u bs hs => ⟨fun h => ?_, fun d h hd => ?_⟩
  all_goals obtain ⟨j, hfeed, hj⟩ := u.feed_hunting mode bs hs h
  · exact ⟨j, hj.le, hj.take_sublist, hj.not_take_succ_sublist, hfeed⟩
  · obtain ⟨hj2, hlock⟩ := magicRest_sublist_singleton j d ((hj _).mp hd)
    have last := Des.consume_magic_lock mode { u with magicIdx := j } d hs hlock hj2
    rw [List.replicate_succ']
    exact Des.feed_append _ _ _ _ _ _ _ _ hfeed (Des.feed_cons _ d _ _ _ _ _ _ last rfl)

/-! ## A frame given to DES in `ReadingMagic` (R94, R104) -/

theorem frame_toList_take_three (r : Record) : (frame r).toList.take 3 = Config.magic.toList := by
  rw [frame_toList, frameBytes]
  exact List.take_left' rfl

theorem frame_toList_take_two (r : Record) : (frame r).toList.take 2 = [0x7D#8, 0x08#8] :=
  List.take_take.symm.trans (congrArg (List.take 2) (frame_toList_take_three r))

/-- The last byte of MAGIC is still to come at every index, and it is none of the first two. -/
theorem magicRest_not_sublist_firstTwo (i : Fin 3) : ¬ (magicRest i).Sublist [0x7D#8, 0x08#8] := by
  revert i
  decide

/-- Settles O48: the first two bytes of a frame do not complete MAGIC, and the third locks. -/
theorem everyMatchIndexLocksOnTheFrame : Obligations.EveryMatchIndexLocksOnTheFrame := by
  intro mode u r hs
  rw [frame_toList_take_two, frame_toList_take_three]
  obtain ⟨j, hfeed, -⟩ := u.feed_hunting mode _ hs (magicRest_not_sublist_firstTwo _)
  exact ⟨⟨_, hfeed, hs⟩, u.feed_magic mode hs⟩

/-- Settles O50: the bytes of the frame run on DES, and the payload they leave in `scratch` is the record's. -/
theorem frameDecodesToItsRecord : Obligations.FrameDecodesToItsRecord := by
  intro s inputs rest r hf hs hp hi
  obtain ⟨v, feed, hmagic, hidx, hscratch⟩ := Des.feed_frame Config.zeroLenMode s.des hs r
  obtain ⟨t, hrun, rfl, hcrcu, hser, hfault, hpend⟩ := run_desBytes _ s inputs rest _ _ hf hp hi feed
  refine ⟨t, ?_, hmagic, hidx, hscratch, hfault, hcrcu, hser, hpend⟩
  simpa using hrun

/-- Settles O51: after the garbage DES still hunts, and a frame decodes from every match index. -/
theorem leadingGarbageDoesNotLoseTheFrame : Obligations.LeadingGarbageDoesNotLoseTheFrame := by
  intro s inputs rest garbage r hf hs hgarbage hp hi
  obtain ⟨j, hunt, -⟩ := s.des.feed_hunting Config.zeroLenMode garbage hs hgarbage
  obtain ⟨v, feed, hmagic, hidx, -⟩ := Des.feed_frame Config.zeroLenMode { s.des with magicIdx := j } hs r
  have both := Des.feed_append _ _ _ _ _ _ _ _ hunt feed
  rw [← List.append_assoc, List.replicate_append_replicate] at both
  obtain ⟨t, hrun, rfl, -, -, hfault, -⟩ := run_desBytes _ s inputs rest _ _ hf hp hi both
  refine ⟨t, ?_, hmagic, hidx, hfault⟩
  simpa using hrun

end Sys2Proof.Machine
end

section
/-! The result items of DES: which bytes give one, and what it carries (spec 42_deserializer.md R102, R105, R106). -/

namespace Sys2Proof.Machine

/-! ## The bytes that answer something -/

/-- A byte answers something other than RSP_NONE only as a LEN byte above 64 or as the fourth checksum byte. -/
theorem Des.consume_done_of_ne_rspNone {mode : ZeroLenMode} {d : Byte} {u v : Des} {r : Response}
    (h : u.consume mode d = .done v r) (hr : r ≠ .rspNone) :
    (u.desState = .readingLength ∧ 64 < d.toNat ∧ r = .rspDesInvalidLength ∧ v = u.returnToMagic) ∨
    (u.desState = .readingChecksum ∧ u.crcCnt = 3 ∧ r = u.verdict (shiftInByte u.crcRx d) ∧
      v = { u.returnToMagic with crcRx := shiftInByte u.crcRx d, crcCnt := 0 }) := by
  obtain ⟨-, hnone, -⟩ | ⟨hs, ⟨hd, hlen, hv⟩ | ⟨hnone, -⟩⟩ | ⟨-, hnone, -⟩ |
    ⟨hs, ⟨n, -, hnone, -⟩ | ⟨hc, hverdict, hv⟩⟩ := Des.consume_done mode d u v r h
  case inr.inl.inl => exact .inl ⟨hs, hd, hlen, hv⟩
  case inr.inr.inr.inr => exact .inr ⟨hs, hc, hverdict, hv⟩
  all_goals exact absurd hnone hr

/-- A verdict carries a result item of its own, never that of the LEN byte. -/
theorem Des.verdict_item (u : Des) (c : Word) :
    ∃ item, (u.verdict c).resultItem = some item ∧ item ≠ .invalidLength := by
  obtain ⟨-, -, hv⟩ | ⟨-, -, hv⟩ | ⟨-, hv⟩ := Des.verdict_cases c u
  all_goals exact hv ▸ ⟨_, rfl, nofun⟩

/-- The response of a byte is RSP_NONE or carries a result item. -/
theorem Des.consume_item_of_ne_rspNone {mode : ZeroLenMode} {d : Byte} {u v : Des} {r : Response}
    (h : u.consume mode d = .done v r) (hr : r ≠ .rspNone) : ∃ item, r.resultItem = some item := by
  obtain ⟨-, -, rfl, -⟩ | ⟨-, -, rfl, -⟩ := Des.consume_done_of_ne_rspNone h hr
  · exact ⟨_, rfl⟩
  · obtain ⟨item, hitem, -⟩ := u.verdict_item (shiftInByte u.crcRx d)
    exact ⟨item, hitem⟩

/-- DES_BYTE answers what its byte does; a model fault answers nothing. -/
theorem exec_desByte_rsp {d : Byte} {s t : State} {r : Response} (h : exec (.desByte d) s = .next t)
    (hr : t.rsp = some r) : s.des.consume Config.zeroLenMode d = .done t.des r := by
  obtain ⟨u, r', hu, rfl⟩ | ⟨f, -, rfl⟩ := ByteOutcome.apply_next _ s t h
  · cases hr; exact hu
  · cases hr

/-! ## The statements about result items -/

/-- Settles O42: of the commands only DES_BYTE answers an item, and there only a byte that ends an attempt. -/
theorem resultItemsResynchronize : Obligations.ResultItemsResynchronize := by
  intro i s t r item h hr hitem
  have hi : subUnit i = some .des := by
    by_contra hi
    have hnone := exec_item_eq_none i s t hi h
    rw [State.item, hr, Option.bind_some, hitem] at hnone
    cases hnone
  cases i with
  | desByte d =>
    have hne : r ≠ .rspNone := by rintro rfl; cases hitem
    refine ⟨⟨d, rfl⟩, ?_⟩
    obtain ⟨hs, -, rfl, hv⟩ | ⟨hs, hc, rfl, hv⟩ := Des.consume_done_of_ne_rspNone (exec_desByte_rsp h hr) hne
    · cases hitem
      exact hv ▸ ⟨rfl, rfl, .inl ⟨rfl, hs⟩⟩
    · obtain ⟨item', hitem', hneq⟩ := s.des.verdict_item (shiftInByte s.des.crcRx d)
      cases hitem'.symm.trans hitem
      exact hv ▸ ⟨rfl, rfl, .inr ⟨hneq, hs, hc⟩⟩
  | desReset data => cases h; cases hr; cases hitem
  | _ => cases hi

/-- Settles O44: the payload carried is the scratch buffer, which R46 keeps zero from `des_cnt` on, and `des_cnt` is
`des_len` once the payload is complete. -/
theorem invalidChecksumCarriesPaddedPayload : Obligations.InvalidChecksumCarriesPaddedPayload := by
  intro s t d c n p hw h hr hn
  obtain ⟨-, -, hlen, -⟩ | ⟨hs, -, hverdict, hv⟩ := Des.consume_done_of_ne_rspNone (exec_desByte_rsp h hr) nofun
  case inl => cases hlen
  have carried := s.des.verdict_cases (shiftInByte s.des.crcRx d)
  rw [← hverdict] at carried
  obtain ⟨-, -, hbad⟩ | ⟨-, -, hbad⟩ | ⟨-, hc⟩ := carried
  case inl => cases hbad
  case inr.inl => cases hbad
  cases hc
  obtain ⟨-, hcnt⟩ | ⟨hzero, -⟩ := hw.des.readingChecksum hs
  · exact ⟨rfl, by rw [hv], rfl, fun i hi => hw.des.scratch_zero i (hcnt ▸ hi)⟩
  · exact absurd hzero (s.des.one_le_desLen_iff.mp hn)

/-- The responses of a stream: one a byte, and the items are those of the responses other than RSP_NONE (R105). -/
theorem Des.feed_items (mode : ZeroLenMode) (bs : List Byte) (u v : Des) (rs : List Response)
    (h : Des.feed mode bs u = some (v, rs)) :
    rs.length = bs.length ∧ (rs.filter (· ≠ .rspNone)).map Response.resultItem = (resultItems rs).map some := by
  induction bs generalizing u rs with
  | nil => cases h; exact ⟨rfl, rfl⟩
  | cons d bs ih =>
    obtain ⟨u', r, qs, hd, hfeed, rfl⟩ := Des.feed_cons_inv mode d bs u v rs h
    obtain ⟨hlen, hitems⟩ := ih u' qs hfeed
    refine ⟨congrArg Nat.succ hlen, ?_⟩
    by_cases hr : r = .rspNone
    · subst hr
      exact hitems
    · obtain ⟨item, hitem⟩ := Des.consume_item_of_ne_rspNone hd hr
      rw [resultItems] at hitems ⊢
      rw [List.filter_cons_of_pos (by simpa using hr), List.map_cons, hitem, List.filterMap_cons_some hitem,
        List.map_cons, hitems]

/-- Settles O54: the items of a stream by induction over its bytes, the fields of an item by the response kinds. -/
theorem resultItemsAreTheOtherResponses : Obligations.ResultItemsAreTheOtherResponses := by
  refine ⟨Des.feed_items, fun r => ?_⟩
  cases r with
  | rspDesOk _ => exact ⟨rfl, rfl⟩
  | rspDesInvalidLength => exact rfl
  | rspDesInvalidChecksum _ n _ => exact ⟨rfl, rfl, rfl, (toNat_ofNat_desLen n).symm⟩
  | rspDesPayloadError _ n => exact ⟨rfl, rfl, (toNat_ofNat_desLen n).symm⟩
  | _ => simp [Response.resultItem, Response.kind]

end Sys2Proof.Machine
end

section
/-! The control commands: NOP, the reserved opcodes, and the data byte a command ignores (spec 43_control.md R109 to
R111). -/

namespace Sys2Proof.Machine

/-! ## NOP and the reserved opcodes (R109, R110) -/

theorem exec_nop (data : Byte) (s : State) : exec (.nop data) s = .next (s.respond .rspNone) := rfl

/-- Settles O25, from the word of NOP and its meaning. -/
theorem nopChangesNothing : Obligations.NopChangesNothing :=
  fun data s => ⟨decodeWord_encode (.nop data), exec_nop data s⟩

theorem opcode_decodeWord_append (op : BitVec 4) (data : Byte) : opcode (decodeWord (op ++ data)) = op := by
  rw [opcode_decodeWord, opField_append]

/-- The commands from opcode `0x7` up are the reserved ones (R70), and all of them have one meaning. -/
theorem exec_of_seven_le_opcode (i : Instr) (s : State) (h : 7 ≤ (opcode i).toNat) :
    exec i s = .next (s.respond .rspIllegal) := by
  cases i with
  | nop _ | crcInit _ | crcByte _ | serEncode _ | serPull _ | desByte _ | desReset _ => simp [opcode] at h
  | reserved7 _ | reserved8 _ | reserved9 _ | reservedA _ | reservedB _ | reservedC _ | reservedD _ | reservedE _
  | reservedF _ => rfl

theorem reserved_opcode_and_data (i : Instr) (data : Byte)
    (h : i ∈ [Instr.reserved7 data, .reserved8 data, .reserved9 data, .reservedA data, .reservedB data,
      .reservedC data, .reservedD data, .reservedE data, .reservedF data]) :
    7 ≤ (opcode i).toNat ∧ i.data = data := by
  simp only [List.mem_cons, List.not_mem_nil, or_false] at h
  obtain rfl | rfl | rfl | rfl | rfl | rfl | rfl | rfl | rfl := h <;> simp [opcode, Instr.data]

/-- Settles O26: the opcode alone decides, both for a command written out and for a decoded word. -/
theorem reservedOpcodesAnswerIllegal : Obligations.ReservedOpcodesAnswerIllegal := by
  refine ⟨fun i data s hi => ?_, fun op data s hop => ?_⟩
  · obtain ⟨hop, rfl⟩ := reserved_opcode_and_data i data hi
    exact ⟨hop, decodeWord_encode i, exec_of_seven_le_opcode i s hop⟩
  · have same := opcode_decodeWord_append op data
    exact ⟨same, exec_of_seven_le_opcode _ s (by rwa [same])⟩

/-! ## Ignored data (R111) -/

theorem Instr.readsData_iff (i : Instr) :
    i.readsData = true ↔ opcode i = 0x2#4 ∨ opcode i = 0x3#4 ∨ opcode i = 0x5#4 := by
  cases i <;> simp [Instr.readsData, opcode]

/-- A command that does not read its data byte has the meaning of every command with its opcode. -/
theorem exec_eq_of_opcode_eq (i j : Instr) (s : State) (hi : i.readsData = false) (hop : opcode i = opcode j) :
    exec i s = exec j s := by
  have hj : decodeWord (opcode i ++ j.data) = j := by rw [hop]; exact decodeWord_encode j
  rw [← hj]
  cases i with
  | crcByte _ | serEncode _ | desByte _ => cases hi
  | nop _ | crcInit _ | serPull _ | desReset _ | reserved7 _ | reserved8 _ | reserved9 _ | reservedA _ | reservedB _
  | reservedC _ | reservedD _ | reservedE _ | reservedF _ =>
    simp only [decodeWord, opcode, opField_append, BitVec.reduceToNat]
    rfl

/-- Two command words with the same meaning, given with the same record, make the same step. -/
theorem step_command_congr (s : State) (v w : CommandWord) (r : Record) (rest : List HostInput)
    (h : ∀ t, exec (decodeWord v) t = exec (decodeWord w) t) :
    step { s with pending := .command v r :: rest } = step { s with pending := .command w r :: rest } := by
  obtain hf | ⟨f, hf⟩ := Option.eq_none_or_eq_some s.fault
  · have runs (u : CommandWord) := step_of_command { s with pending := .command u r :: rest } u r rest hf rfl
    exact (runs v).trans ((h _).trans (runs w).symm)
  · have stops (inputs : List HostInput) := step_of_fault { s with pending := inputs } f hf
    rw [stops, stops]

/-- A written command whose ignored data byte is 0 is assembled to its opcode over that 0. -/
theorem commandWord_eq_opcode_append_zero (c : AsmCommand) (hwf : c.wf = true) (hd : (namedCommand c).data = 0#8) :
    commandWord c = opcode (decodeWord (commandWord c)) ++ 0x00#8 := by
  rw [decodeWord_commandWord c hwf, commandWord_eq_encode c hwf, encode, hd]

/-- Settles O27: the two words decode to commands of one opcode, which is not one of the three that read data. -/
theorem ignoredDataHasNoEffect : Obligations.IgnoredDataHasNoEffect := by
  refine ⟨fun s op data r rest h2 h3 h5 => step_command_congr s _ _ r rest fun t => ?_, fun c hc => ?_⟩
  · have ignores : (decodeWord (op ++ data)).readsData = false := by
      rw [← Bool.not_eq_true, Instr.readsData_iff, opcode_decodeWord_append]
      simp [h2, h3, h5]
    exact exec_eq_of_opcode_eq _ _ t ignores (by simp only [opcode_decodeWord_append])
  · have named : ∀ c ∈ [AsmCommand.nop, .crcInit, .serPull, .desReset],
        c.wf = true ∧ (namedCommand c).data = 0#8 := by decide
    obtain ⟨hwf, hd⟩ := named c hc
    exact commandWord_eq_opcode_append_zero c hwf hd

end Sys2Proof.Machine
end

section
/-! Errors and faults: which command reports which error, that a recorded fault stays, and where a step has a next state
(spec 60_exceptions.md R112 to R124). -/

namespace Sys2Proof.Machine

/-! ## A recorded fault stays (R124) -/

/-- A command writes `fault` only with the one reason there is (R123). -/
theorem exec_fault_of_faulted (i : Instr) (s t : State) (r : FaultReason) (hf : s.fault = some r)
    (h : exec i s = .next t) : t.fault = some r := by
  obtain ⟨_, rfl⟩ | ⟨-, _, _, rfl⟩ | ⟨-, _, _, rfl⟩ | ⟨-, ⟨_, _, rfl⟩ | ⟨f, rfl⟩⟩ := exec_next i s t h
  case inr.inr.inr.inr => cases f; cases r; rfl
  all_goals exact hf

/-- Settles O2, from the step of a faulted machine and the next states a command can give. -/
theorem recordedFaultIsNeverCleared : Obligations.RecordedFaultIsNeverCleared :=
  ⟨step_of_fault, exec_fault_of_faulted, State.assertReset_fault, rfl⟩

/-! ## Where a step has a next state (R112, R119) -/

/-- The payload index of a well-formed state lies inside the scratch buffer, so no command stops there (R46, R49). -/
theorem exec_answers_of_wellFormed (s : State) (i : Instr) (hw : s.WellFormed) : ∃ t, exec i s = .next t := by
  refine onlyAStorePastScratchStopsACommand.2 i s fun ⟨_, hs, hl, hc⟩ => ?_
  have hlt := hw.des.desCnt_lt_desLen hs (s.des.one_le_desLen_iff.mp hl)
  rw [hc] at hlt
  exact absurd hlt (Fin.le_last s.des.desLen).not_gt

/-- Without a fault a step takes no input or the reset event, and answers, or it is a command's. -/
theorem step_answers_or_runs_command (s : State) (hf : s.fault = none) :
    (∃ t, step s = .next t) ∨ ∃ i r rest, step s = exec i (s.present r rest) := by
  cases hp : s.pending with
  | nil => exact .inl ⟨_, step_of_no_input s hf hp⟩
  | cons input rest =>
    cases input with
    | reset => exact .inl ⟨_, step_of_reset s rest hf hp⟩
    | command cmd r => exact .inr ⟨_, r, rest, step_of_command s cmd r rest hf hp⟩

/-- A command that has no next state stops with a fault. -/
theorem exec_ne_refused (i : Instr) (s : State) (r : Refusal) : exec i s ≠ .refused r := by
  intro h
  by_cases hstop : (∃ d, i = .desByte d) ∧ s.des.desState = .readingBytes ∧ 1 ≤ s.des.desLen.val ∧ s.des.desCnt = 64
  · obtain ⟨⟨d, rfl⟩, hs, hl, hc⟩ := hstop
    cases (onlyAStorePastScratchStopsACommand.1 d s hs hl hc).symm.trans h
  · obtain ⟨t, ht⟩ := onlyAStorePastScratchStopsACommand.2 i s hstop
    cases ht.symm.trans h

theorem step_ne_refused (s : State) (r : Refusal) : step s ≠ .refused r := by
  intro h
  obtain hf | ⟨f, hf⟩ := Option.eq_none_or_eq_some s.fault
  · obtain ⟨t, ht⟩ | ⟨i, recIn, rest, hx⟩ := step_answers_or_runs_command s hf
    · cases ht.symm.trans h
    · exact exec_ne_refused i _ r (hx.symm.trans h)
  · cases (step_of_fault s f hf).symm.trans h

/-- Settles O36: taking the input off the port keeps the state well-formed, so its command answers. -/
theorem wellFormedMachineAlwaysSteps : Obligations.WellFormedMachineAlwaysSteps := by
  refine ⟨fun s hw hf => ?_, exec_answers_of_wellFormed, step_ne_refused⟩
  obtain ht | ⟨i, r, rest, hx⟩ := step_answers_or_runs_command s hf
  · exact ht
  · exact hx ▸ exec_answers_of_wellFormed (s.present r rest) i ⟨hw.ser, hw.des⟩

/-! ## The cause of each reported error (R113 to R118, R120) -/

/-- DES_BYTE reports an error only for a LEN byte above 64 or with the verdict of the fourth checksum byte. -/
theorem exec_desByte_error {d : Byte} {s t : State} {r : Response} {e : ReportedError}
    (h : exec (.desByte d) s = .next t) (hr : t.rsp = some r) (he : r.error = some e) :
    (s.des.desState = .readingLength ∧ 64 < d.toNat ∧ e = .invalidLength) ∨
    (s.des.desState = .readingChecksum ∧ s.des.crcCnt = 3 ∧ r = s.des.verdict t.des.crcRx) := by
  have hne : r ≠ .rspNone := by rintro rfl; cases he
  obtain ⟨hs, hd, rfl, -⟩ | ⟨hs, hc, hverdict, hv⟩ := Des.consume_done_of_ne_rspNone (exec_desByte_rsp h hr) hne
  · cases he; exact .inl ⟨hs, hd, rfl⟩
  · exact .inr ⟨hs, hc, by rw [hv]; exact hverdict⟩

/-- Settles O43, command by command; for DES_BYTE by the three verdicts on a frame attempt. -/
theorem everyReportedErrorHasItsCause : Obligations.EveryReportedErrorHasItsCause := by
  intro i s t r e h hr he
  cases i with
  | desByte d =>
    obtain ⟨hs, hd, rfl⟩ | ⟨hs, hc, hverdict⟩ := exec_desByte_error h hr he
    · exact ⟨d, rfl, hs, hd⟩
    obtain ⟨-, -, hv⟩ | ⟨hcrc, hlt, hv⟩ | ⟨hcrc, hv⟩ := Des.verdict_cases t.des.crcRx s.des
    all_goals
      rw [hverdict, hv] at he
      cases he
    · exact ⟨d, rfl, hs, hc, hcrc, hlt, hverdict.trans hv⟩
    · exact ⟨d, rfl, hs, hc, hcrc, hverdict.trans hv⟩
  | serEncode cap =>
    by_cases hcap : cap.toNat < 72
    · cases (exec_serEncode_tooSmall cap s hcap).symm.trans h
      cases hr; cases he; exact ⟨cap, rfl, hcap⟩
    · cases (exec_serEncode_fits cap s (Nat.not_lt.mp hcap)).symm.trans h
      cases hr; cases he
  | serPull data =>
    obtain rfl | ⟨n, b, rfl⟩ := execSerPull_next data s t h <;> cases hr <;> cases he
  | nop _ | crcInit _ | crcByte _ | desReset _ => cases h; cases hr; cases he
  | reserved7 _ | reserved8 _ | reserved9 _ | reservedA _ | reservedB _ | reservedC _ | reservedD _ | reservedE _
  | reservedF _ => cases h; cases hr; cases he; simp [opcode]

end Sys2Proof.Machine
end

section
/-! The reset event, the port `rec_in`, and the block end to end (spec 70_reset_and_hazards.md R132, R136, R142). -/

namespace Sys2Proof.Machine

/-! ## From a record through SER and DES and back (R136) -/

/-- Settles O53: SER hands out the record's frame and leaves DES in `ReadingMagic`, where a frame decodes to its
record. -/
theorem encodedFramePulledAndFedBackDecodes : Obligations.EncodedFramePulledAndFedBackDecodes := by
  intro s inputs feeds rest cap r pulls hf hs hc hl hp hi
  obtain ⟨t, hrun, -, hpend, -, hdes, hfault⟩ :=
    run_encode_then_pulls s inputs (feeds ++ rest) cap r pulls hf hc hl hp hi
  refine ⟨t, (frame r).toList, hrun, hpend, fun hfeeds => ?_⟩
  obtain ⟨u, hback, -, -, -, -, -, -, hrest⟩ :=
    frameDecodesToItsRecord t feeds rest r hfault (hdes ▸ hs) hpend hfeeds
  exact ⟨u, hback, hrest⟩

/-! ## Who reads `rec_in` (R43, R142) -/

/-- Every command but SER_ENCODE answers from registers that another record on `rec_in` leaves alone. -/
theorem exec_next_of_other_record (i : Instr) (s t : State) (r : Record) (hi : ∀ cap, i ≠ .serEncode cap)
    (h : exec i s = .next t) : exec i { s with recIn := r } = .next { t with recIn := r } := by
  cases i with
  | serEncode cap => exact absurd rfl (hi cap)
  | serPull data =>
    obtain ⟨u, a, rfl, again⟩ := execSerPull_local data s t h
    exact again _ rfl
  | desByte _ | desReset _ =>
    obtain ⟨u, a, rfl, again⟩ | ⟨f, rfl, again⟩ := exec_des_local _ s t rfl h
    all_goals exact again _ rfl
  | nop _ | crcInit _ | crcByte _ | reserved7 _ | reserved8 _ | reserved9 _ | reservedA _ | reservedB _ | reservedC _
  | reservedD _ | reservedE _ | reservedF _ => cases h; rfl

/-- A command that stops, a DES_BYTE that would store past `scratch`, stops in every state with the same DES (R46,
R49). -/
theorem exec_fault_local (i : Instr) (s : State) (f : Fault) (h : exec i s = .fault f) :
    ∀ s', s'.des = s.des → exec i s' = .fault f := by
  intro s' hdes
  by_cases hstop : (∃ d, i = .desByte d) ∧ s.des.desState = .readingBytes ∧ 1 ≤ s.des.desLen.val ∧ s.des.desCnt = 64
  case pos =>
    obtain ⟨⟨d, rfl⟩, hs, hl, hc⟩ := hstop
    cases (onlyAStorePastScratchStopsACommand.1 d s hs hl hc).symm.trans h
    rw [← hdes] at hs hl hc
    exact onlyAStorePastScratchStopsACommand.1 d s' hs hl hc
  case neg =>
    obtain ⟨t, ht⟩ := onlyAStorePastScratchStopsACommand.2 i s hstop
    cases ht.symm.trans h

/-- Settles O39: a next state rests on the addressed sub-unit alone, a stop on DES alone. -/
theorem onlySerEncodeReadsTheRecord : Obligations.OnlySerEncodeReadsTheRecord :=
  fun i s r hi => ⟨fun t h => exec_next_of_other_record i s t r hi h, fun f h => exec_fault_local i s f h _ rfl⟩

/-! ## The reset event (R132) -/

/-- The reset values are those R132 lists, in every state that holds them. -/
theorem State.registersAtReset_of_reset (s : State) (hc : s.crcu = Crcu.reset) (hs : s.ser = Ser.reset)
    (hd : s.des = Des.reset) : s.RegistersAtReset := by
  constructor
  case serFrame => rw [hs]; exact fun _ => Vector.getElem_replicate _
  case scratch => rw [hd]; exact fun _ => Vector.getElem_replicate _
  case crcAcc => rw [hc]; rfl
  case serLen | serRd => rw [hs]; rfl
  all_goals rw [hd]; rfl

theorem State.assertReset_registersAtReset (s : State) : s.assertReset.RegistersAtReset :=
  s.assertReset.registersAtReset_of_reset rfl rfl rfl

/-- Settles O1: the event's step is `State.assertReset`, and CRC_INIT and DES_RESET write the same reset values. -/
theorem resetEventSetsEveryRegister : Obligations.ResetEventSetsEveryRegister := by
  refine ⟨fun s rest hf hp => ?_, State.reset.registersAtReset_of_reset rfl rfl rfl, rfl, fun s t u a b ht hu => ?_⟩
  · exact ⟨_, step_of_reset s rest hf hp, State.assertReset_registersAtReset _, rfl, hf, rfl, rfl⟩
  · cases ht
    cases hu
    exact ⟨rfl, rfl⟩

end Sys2Proof.Machine
end
